-- ==== Sys2Proof/Word.lean ====
section
/-! DEFINITION. The two word types of the block: a byte (A, X, Y, SP, P, a memory byte) and a 16-bit word
(PC, an address), 00_scope.md R10. Their fields and conversions are in Machine/Bytes.lean. -/
namespace Sys2Proof

/-- An 8-bit value: the data width (R10). -/
abbrev Byte := BitVec 8

/-- A 16-bit value: the PC and address width (R10). -/
abbrev Word := BitVec 16

end Sys2Proof
end

