-- ==== Sys2Proof/Machine/Bytes.lean ====
section
/-! DEFINITION. Byte and word conversions (00_scope.md R12, R13): the halves of an address, concatenation, and the two
extensions of a byte. -/
namespace Sys2Proof.Machine

/-- `lo(a) = a[7:0]` (R12). -/
def loByte (a : Word) : Byte := a.setWidth 8

/-- `hi(a) = a[15:8]` (R12). -/
def hiByte (a : Word) : Byte := (a >>> 8).setWidth 8

/-- `hi:lo`, the 16-bit value `hi * 256 + lo` (R12). -/
def wordOf (hi lo : Byte) : Word := hi ++ lo

/-- `zext_16(b)` (R13). -/
def zext16 (b : Byte) : Word := b.setWidth 16

/-- `sext_16(d)`: two's complement (R13). -/
def sext16 (d : Byte) : Word := d.signExtend 16

end Sys2Proof.Machine
end

