-- ==== Sys2Proof/Syntax.lean ====
section
/-! DEFINITION. The instructions: one constructor per handler of 30_encoding.md R63 (the 57 mnemonics of
spec/opcode_table.json), its addressing mode and operand bytes as its argument. A row of the table is a handler paired
with a mode (R58), so the 256 rows are the well-formed values of `Instr` without their operand bytes. -/
namespace Sys2Proof

/-- The 13 addressing modes (R62, R77). -/
inductive Mode where
  | implied | accumulator | immediate | relative | zeroPage | zeroPageX | zeroPageY
  | absolute | absoluteX | absoluteY | indirect | indirectPreIndexed | indirectPostIndexed
  deriving DecidableEq, Repr

/-- The operand forms of the instructions that work on one byte of memory (R80, R82 to R87, R89, R90), with the operand
bytes of the instruction (R57): an immediate byte, a zero-page address or an absolute address. -/
inductive Operand where
  | imm  (value : Byte)
  | zp   (zero : Byte)
  | zpX  (zero : Byte)
  | zpY  (zero : Byte)
  | abs  (address : Word)
  | absX (address : Word)
  | absY (address : Word)
  | indX (zero : Byte)
  | indY (zero : Byte)
  deriving DecidableEq, Repr

/-- The operand of ASL, LSR, ROL and ROR: the accumulator (R79) or a byte of memory. -/
inductive ShiftOperand where
  | acc
  | mem (operand : Operand)
  deriving DecidableEq, Repr

/-- The operand of JMP: absolute (R170) or indirect (R171). -/
inductive JumpOperand where
  | abs (target : Word)
  | ind (pointer : Word)
  deriving DecidableEq, Repr

/-- The addressing mode of an operand form (R62). -/
def Operand.mode : Operand → Mode
  | .imm _  => .immediate
  | .zp _   => .zeroPage
  | .zpX _  => .zeroPageX
  | .zpY _  => .zeroPageY
  | .abs _  => .absolute
  | .absX _ => .absoluteX
  | .absY _ => .absoluteY
  | .indX _ => .indirectPreIndexed
  | .indY _ => .indirectPostIndexed

/-- The addressing mode of a shift's operand (R62). -/
def ShiftOperand.mode : ShiftOperand → Mode
  | .acc   => .accumulator
  | .mem o => o.mode

/-- The addressing mode of JMP's operand (R62). -/
def JumpOperand.mode : JumpOperand → Mode
  | .abs _ => .absolute
  | .ind _ => .indirect

/-- The instructions, in the order of 30_encoding.md R63. A branch carries its displacement byte, JSR its target, and an
illegal opcode (`ill`, R64) the opcode byte itself. -/
inductive Instr where
  | adc (operand : Operand)
  | and (operand : Operand)
  | asl (operand : ShiftOperand)
  | bcc (displacement : Byte)
  | bcs (displacement : Byte)
  | beq (displacement : Byte)
  | bit (operand : Operand)
  | bmi (displacement : Byte)
  | bne (displacement : Byte)
  | bpl (displacement : Byte)
  | brk
  | bvc (displacement : Byte)
  | bvs (displacement : Byte)
  | clc
  | cld
  | cli
  | clv
  | cmp (operand : Operand)
  | cpx (operand : Operand)
  | cpy (operand : Operand)
  | dec (operand : Operand)
  | dex
  | dey
  | eor (operand : Operand)
  | inc (operand : Operand)
  | inx
  | iny
  | jmp (operand : JumpOperand)
  | jsr (target : Word)
  | lda (operand : Operand)
  | ldx (operand : Operand)
  | ldy (operand : Operand)
  | lsr (operand : ShiftOperand)
  | nop
  | ora (operand : Operand)
  | pha
  | php
  | pla
  | plp
  | rol (operand : ShiftOperand)
  | ror (operand : ShiftOperand)
  | rti
  | rts
  | sbc (operand : Operand)
  | sec
  | sed
  | sei
  | sta (operand : Operand)
  | stx (operand : Operand)
  | sty (operand : Operand)
  | tax
  | tay
  | tsx
  | txa
  | txs
  | tya
  | ill (opcode : Byte)
  deriving DecidableEq, Repr

/-- The addressing mode of an instruction (R65). -/
def Instr.mode : Instr → Mode
  | .adc o | .and o | .bit o | .cmp o | .cpx o | .cpy o | .dec o | .eor o | .inc o
  | .lda o | .ldx o | .ldy o | .ora o | .sbc o | .sta o | .stx o | .sty o => o.mode
  | .asl o | .lsr o | .rol o | .ror o => o.mode
  | .bcc _ | .bcs _ | .beq _ | .bmi _ | .bne _ | .bpl _ | .bvc _ | .bvs _ => .relative
  | .jmp o => o.mode
  | .jsr _ => .absolute
  | .brk | .clc | .cld | .cli | .clv | .dex | .dey | .inx | .iny | .nop | .pha | .php | .pla | .plp
  | .rti | .rts | .sec | .sed | .sei | .tax | .tay | .tsx | .txa | .txs | .tya => .implied
  | .ill _ => .implied

end Sys2Proof
end

