-- ==== Sys2Proof/WellFormed.lean ====
section
/-! DEFINITION. Which instructions exist: a handler with a mode its rule accepts (40 R73), and an illegal opcode only
with one of the 105 bytes the opcode map leaves to it (30 R64). -/
namespace Sys2Proof

/-- The modes each handler's rule lists under "Encoding" (files 41 to 45). -/
def Instr.acceptedModes : Instr → List Mode
  | .lda _ | .adc _ | .sbc _ | .and _ | .ora _ | .eor _ | .cmp _ =>
    [.immediate, .zeroPage, .zeroPageX, .absolute, .absoluteX, .absoluteY, .indirectPreIndexed, .indirectPostIndexed]
  | .ldx _ => [.immediate, .zeroPage, .zeroPageY, .absolute, .absoluteY]
  | .ldy _ => [.immediate, .zeroPage, .zeroPageX, .absolute, .absoluteX]
  | .sta _ =>
    [.zeroPage, .zeroPageX, .absolute, .absoluteX, .absoluteY, .indirectPreIndexed, .indirectPostIndexed]
  | .stx _ => [.zeroPage, .zeroPageY, .absolute]
  | .sty _ => [.zeroPage, .zeroPageX, .absolute]
  | .cpx _ | .cpy _ => [.immediate, .zeroPage, .absolute]
  | .bit _ => [.zeroPage, .absolute]
  | .inc _ | .dec _ => [.zeroPage, .zeroPageX, .absolute, .absoluteX]
  | .asl _ | .lsr _ | .rol _ | .ror _ => [.accumulator, .zeroPage, .zeroPageX, .absolute, .absoluteX]
  | .bcc _ | .bcs _ | .beq _ | .bmi _ | .bne _ | .bpl _ | .bvc _ | .bvs _ => [.relative]
  | .jmp _ => [.absolute, .indirect]
  | .jsr _ => [.absolute]
  | .brk | .clc | .cld | .cli | .clv | .dex | .dey | .inx | .iny | .nop | .pha | .php | .pla | .plp
  | .rti | .rts | .sec | .sed | .sei | .tax | .tay | .tsx | .txa | .txs | .tya => [.implied]
  | .ill _ => [.implied]

/-- The 105 illegal opcode bytes (30 R64), one line per row of the matrix of R65. -/
def illegalBytes : List Nat :=
  [0x02, 0x03, 0x04, 0x07, 0x0B, 0x0C, 0x0F] ++
  [0x12, 0x13, 0x14, 0x17, 0x1A, 0x1B, 0x1C, 0x1F] ++
  [0x22, 0x23, 0x27, 0x2B, 0x2F] ++
  [0x32, 0x33, 0x34, 0x37, 0x3A, 0x3B, 0x3C, 0x3F] ++
  [0x42, 0x43, 0x44, 0x47, 0x4B, 0x4F] ++
  [0x52, 0x53, 0x54, 0x57, 0x5A, 0x5B, 0x5C, 0x5F] ++
  [0x62, 0x63, 0x64, 0x67, 0x6B, 0x6F] ++
  [0x72, 0x73, 0x74, 0x77, 0x7A, 0x7B, 0x7C, 0x7F] ++
  [0x80, 0x82, 0x83, 0x87, 0x89, 0x8B, 0x8F] ++
  [0x92, 0x93, 0x97, 0x9B, 0x9C, 0x9E, 0x9F] ++
  [0xA3, 0xA7, 0xAB, 0xAF] ++
  [0xB2, 0xB3, 0xB7, 0xBB, 0xBF] ++
  [0xC2, 0xC3, 0xC7, 0xCB, 0xCF] ++
  [0xD2, 0xD3, 0xD4, 0xD7, 0xDA, 0xDB, 0xDC, 0xDF] ++
  [0xE2, 0xE3, 0xE7, 0xEB, 0xEF] ++
  [0xF2, 0xF3, 0xF4, 0xF7, 0xFA, 0xFB, 0xFC, 0xFF]

/-- The opcode byte of an `ill` is an illegal one; no check for any other instruction. -/
def Instr.illegalByteOk : Instr → Bool
  | .ill op => illegalBytes.contains op.toNat
  | .adc _ | .and _ | .asl _ | .bcc _ | .bcs _ | .beq _ | .bit _ | .bmi _ | .bne _ | .bpl _ | .brk | .bvc _
  | .bvs _ | .clc | .cld | .cli | .clv | .cmp _ | .cpx _ | .cpy _ | .dec _ | .dex | .dey | .eor _ | .inc _
  | .inx | .iny | .jmp _ | .jsr _ | .lda _ | .ldx _ | .ldy _ | .lsr _ | .nop | .ora _ | .pha | .php | .pla
  | .plp | .rol _ | .ror _ | .rti | .rts | .sbc _ | .sec | .sed | .sei | .sta _ | .stx _ | .sty _ | .tax | .tay
  | .tsx | .txa | .txs | .tya => true

/-- Well-formed: an accepted mode (R73), and a byte of R64 for an illegal opcode. -/
def Instr.wellFormed (i : Instr) : Bool :=
  i.acceptedModes.contains i.mode && i.illegalByteOk

end Sys2Proof
end

