-- ==== Sys2Proof/Decode.lean ====
section
/-! DEFINITION. The decoder (30_encoding.md R55 to R65, 40 R72) and, after it, the encoder written from the "Encoding"
line of each instruction's rule (files 41 to 45). -/
namespace Sys2Proof

open Sys2Proof.Machine

/-- The length of an instruction in bytes, by its mode alone (R56). -/
def Mode.length : Mode → Nat
  | .implied | .accumulator => 1
  | .immediate | .relative | .zeroPage | .zeroPageX | .zeroPageY | .indirectPreIndexed | .indirectPostIndexed => 2
  | .absolute | .absoluteX | .absoluteY | .indirect => 3

/-- The length of an instruction in bytes (R56). -/
def Instr.length (i : Instr) : Nat := i.mode.length

/-- Row 0x of the opcode map (R65); `lo` is the column. -/
def decodeRow0 (lo : Nat) (op b1 b2 : Byte) : Instr :=
  match lo with
  | 0x0 => .brk
  | 0x1 => .ora (.indX b1)
  | 0x5 => .ora (.zp b1)
  | 0x6 => .asl (.mem (.zp b1))
  | 0x8 => .php
  | 0x9 => .ora (.imm b1)
  | 0xA => .asl .acc
  | 0xD => .ora (.abs (wordOf b2 b1))
  | 0xE => .asl (.mem (.abs (wordOf b2 b1)))
  | _ => .ill op

/-- Row 1x of the opcode map (R65); `lo` is the column. -/
def decodeRow1 (lo : Nat) (op b1 b2 : Byte) : Instr :=
  match lo with
  | 0x0 => .bpl b1
  | 0x1 => .ora (.indY b1)
  | 0x5 => .ora (.zpX b1)
  | 0x6 => .asl (.mem (.zpX b1))
  | 0x8 => .clc
  | 0x9 => .ora (.absY (wordOf b2 b1))
  | 0xD => .ora (.absX (wordOf b2 b1))
  | 0xE => .asl (.mem (.absX (wordOf b2 b1)))
  | _ => .ill op

/-- Row 2x of the opcode map (R65); `lo` is the column. -/
def decodeRow2 (lo : Nat) (op b1 b2 : Byte) : Instr :=
  match lo with
  | 0x0 => .jsr (wordOf b2 b1)
  | 0x1 => .and (.indX b1)
  | 0x4 => .bit (.zp b1)
  | 0x5 => .and (.zp b1)
  | 0x6 => .rol (.mem (.zp b1))
  | 0x8 => .plp
  | 0x9 => .and (.imm b1)
  | 0xA => .rol .acc
  | 0xC => .bit (.abs (wordOf b2 b1))
  | 0xD => .and (.abs (wordOf b2 b1))
  | 0xE => .rol (.mem (.abs (wordOf b2 b1)))
  | _ => .ill op

/-- Row 3x of the opcode map (R65); `lo` is the column. -/
def decodeRow3 (lo : Nat) (op b1 b2 : Byte) : Instr :=
  match lo with
  | 0x0 => .bmi b1
  | 0x1 => .and (.indY b1)
  | 0x5 => .and (.zpX b1)
  | 0x6 => .rol (.mem (.zpX b1))
  | 0x8 => .sec
  | 0x9 => .and (.absY (wordOf b2 b1))
  | 0xD => .and (.absX (wordOf b2 b1))
  | 0xE => .rol (.mem (.absX (wordOf b2 b1)))
  | _ => .ill op

/-- Row 4x of the opcode map (R65); `lo` is the column. -/
def decodeRow4 (lo : Nat) (op b1 b2 : Byte) : Instr :=
  match lo with
  | 0x0 => .rti
  | 0x1 => .eor (.indX b1)
  | 0x5 => .eor (.zp b1)
  | 0x6 => .lsr (.mem (.zp b1))
  | 0x8 => .pha
  | 0x9 => .eor (.imm b1)
  | 0xA => .lsr .acc
  | 0xC => .jmp (.abs (wordOf b2 b1))
  | 0xD => .eor (.abs (wordOf b2 b1))
  | 0xE => .lsr (.mem (.abs (wordOf b2 b1)))
  | _ => .ill op

/-- Row 5x of the opcode map (R65); `lo` is the column. -/
def decodeRow5 (lo : Nat) (op b1 b2 : Byte) : Instr :=
  match lo with
  | 0x0 => .bvc b1
  | 0x1 => .eor (.indY b1)
  | 0x5 => .eor (.zpX b1)
  | 0x6 => .lsr (.mem (.zpX b1))
  | 0x8 => .cli
  | 0x9 => .eor (.absY (wordOf b2 b1))
  | 0xD => .eor (.absX (wordOf b2 b1))
  | 0xE => .lsr (.mem (.absX (wordOf b2 b1)))
  | _ => .ill op

/-- Row 6x of the opcode map (R65); `lo` is the column. -/
def decodeRow6 (lo : Nat) (op b1 b2 : Byte) : Instr :=
  match lo with
  | 0x0 => .rts
  | 0x1 => .adc (.indX b1)
  | 0x5 => .adc (.zp b1)
  | 0x6 => .ror (.mem (.zp b1))
  | 0x8 => .pla
  | 0x9 => .adc (.imm b1)
  | 0xA => .ror .acc
  | 0xC => .jmp (.ind (wordOf b2 b1))
  | 0xD => .adc (.abs (wordOf b2 b1))
  | 0xE => .ror (.mem (.abs (wordOf b2 b1)))
  | _ => .ill op

/-- Row 7x of the opcode map (R65); `lo` is the column. -/
def decodeRow7 (lo : Nat) (op b1 b2 : Byte) : Instr :=
  match lo with
  | 0x0 => .bvs b1
  | 0x1 => .adc (.indY b1)
  | 0x5 => .adc (.zpX b1)
  | 0x6 => .ror (.mem (.zpX b1))
  | 0x8 => .sei
  | 0x9 => .adc (.absY (wordOf b2 b1))
  | 0xD => .adc (.absX (wordOf b2 b1))
  | 0xE => .ror (.mem (.absX (wordOf b2 b1)))
  | _ => .ill op

/-- Row 8x of the opcode map (R65); `lo` is the column. -/
def decodeRow8 (lo : Nat) (op b1 b2 : Byte) : Instr :=
  match lo with
  | 0x1 => .sta (.indX b1)
  | 0x4 => .sty (.zp b1)
  | 0x5 => .sta (.zp b1)
  | 0x6 => .stx (.zp b1)
  | 0x8 => .dey
  | 0xA => .txa
  | 0xC => .sty (.abs (wordOf b2 b1))
  | 0xD => .sta (.abs (wordOf b2 b1))
  | 0xE => .stx (.abs (wordOf b2 b1))
  | _ => .ill op

/-- Row 9x of the opcode map (R65); `lo` is the column. -/
def decodeRow9 (lo : Nat) (op b1 b2 : Byte) : Instr :=
  match lo with
  | 0x0 => .bcc b1
  | 0x1 => .sta (.indY b1)
  | 0x4 => .sty (.zpX b1)
  | 0x5 => .sta (.zpX b1)
  | 0x6 => .stx (.zpY b1)
  | 0x8 => .tya
  | 0x9 => .sta (.absY (wordOf b2 b1))
  | 0xA => .txs
  | 0xD => .sta (.absX (wordOf b2 b1))
  | _ => .ill op

/-- Row Ax of the opcode map (R65); `lo` is the column. -/
def decodeRowA (lo : Nat) (op b1 b2 : Byte) : Instr :=
  match lo with
  | 0x0 => .ldy (.imm b1)
  | 0x1 => .lda (.indX b1)
  | 0x2 => .ldx (.imm b1)
  | 0x4 => .ldy (.zp b1)
  | 0x5 => .lda (.zp b1)
  | 0x6 => .ldx (.zp b1)
  | 0x8 => .tay
  | 0x9 => .lda (.imm b1)
  | 0xA => .tax
  | 0xC => .ldy (.abs (wordOf b2 b1))
  | 0xD => .lda (.abs (wordOf b2 b1))
  | 0xE => .ldx (.abs (wordOf b2 b1))
  | _ => .ill op

/-- Row Bx of the opcode map (R65); `lo` is the column. -/
def decodeRowB (lo : Nat) (op b1 b2 : Byte) : Instr :=
  match lo with
  | 0x0 => .bcs b1
  | 0x1 => .lda (.indY b1)
  | 0x4 => .ldy (.zpX b1)
  | 0x5 => .lda (.zpX b1)
  | 0x6 => .ldx (.zpY b1)
  | 0x8 => .clv
  | 0x9 => .lda (.absY (wordOf b2 b1))
  | 0xA => .tsx
  | 0xC => .ldy (.absX (wordOf b2 b1))
  | 0xD => .lda (.absX (wordOf b2 b1))
  | 0xE => .ldx (.absY (wordOf b2 b1))
  | _ => .ill op

/-- Row Cx of the opcode map (R65); `lo` is the column. -/
def decodeRowC (lo : Nat) (op b1 b2 : Byte) : Instr :=
  match lo with
  | 0x0 => .cpy (.imm b1)
  | 0x1 => .cmp (.indX b1)
  | 0x4 => .cpy (.zp b1)
  | 0x5 => .cmp (.zp b1)
  | 0x6 => .dec (.zp b1)
  | 0x8 => .iny
  | 0x9 => .cmp (.imm b1)
  | 0xA => .dex
  | 0xC => .cpy (.abs (wordOf b2 b1))
  | 0xD => .cmp (.abs (wordOf b2 b1))
  | 0xE => .dec (.abs (wordOf b2 b1))
  | _ => .ill op

/-- Row Dx of the opcode map (R65); `lo` is the column. -/
def decodeRowD (lo : Nat) (op b1 b2 : Byte) : Instr :=
  match lo with
  | 0x0 => .bne b1
  | 0x1 => .cmp (.indY b1)
  | 0x5 => .cmp (.zpX b1)
  | 0x6 => .dec (.zpX b1)
  | 0x8 => .cld
  | 0x9 => .cmp (.absY (wordOf b2 b1))
  | 0xD => .cmp (.absX (wordOf b2 b1))
  | 0xE => .dec (.absX (wordOf b2 b1))
  | _ => .ill op

/-- Row Ex of the opcode map (R65); `lo` is the column. -/
def decodeRowE (lo : Nat) (op b1 b2 : Byte) : Instr :=
  match lo with
  | 0x0 => .cpx (.imm b1)
  | 0x1 => .sbc (.indX b1)
  | 0x4 => .cpx (.zp b1)
  | 0x5 => .sbc (.zp b1)
  | 0x6 => .inc (.zp b1)
  | 0x8 => .inx
  | 0x9 => .sbc (.imm b1)
  | 0xA => .nop
  | 0xC => .cpx (.abs (wordOf b2 b1))
  | 0xD => .sbc (.abs (wordOf b2 b1))
  | 0xE => .inc (.abs (wordOf b2 b1))
  | _ => .ill op

/-- Row Fx of the opcode map (R65); `lo` is the column. -/
def decodeRowF (lo : Nat) (op b1 b2 : Byte) : Instr :=
  match lo with
  | 0x0 => .beq b1
  | 0x1 => .sbc (.indY b1)
  | 0x5 => .sbc (.zpX b1)
  | 0x6 => .inc (.zpX b1)
  | 0x8 => .sed
  | 0x9 => .sbc (.absY (wordOf b2 b1))
  | 0xD => .sbc (.absX (wordOf b2 b1))
  | 0xE => .inc (.absX (wordOf b2 b1))
  | _ => .ill op

/-- The opcode map (R65): the instruction of an opcode byte with the bytes `b1` and `b2` after it (R57: a one-byte operand
is `b1`, a two-byte operand is `b2 : b1`). Every byte the map leaves out is an illegal opcode (R64). The decoder uses all 8
bits of the byte, written as the row and the column of the map; it has no other sub-fields (R55). -/
def decodeOpcode (op b1 b2 : Byte) : Instr :=
  match op.toNat / 16 with
  | 0x0 => decodeRow0 (op.toNat % 16) op b1 b2
  | 0x1 => decodeRow1 (op.toNat % 16) op b1 b2
  | 0x2 => decodeRow2 (op.toNat % 16) op b1 b2
  | 0x3 => decodeRow3 (op.toNat % 16) op b1 b2
  | 0x4 => decodeRow4 (op.toNat % 16) op b1 b2
  | 0x5 => decodeRow5 (op.toNat % 16) op b1 b2
  | 0x6 => decodeRow6 (op.toNat % 16) op b1 b2
  | 0x7 => decodeRow7 (op.toNat % 16) op b1 b2
  | 0x8 => decodeRow8 (op.toNat % 16) op b1 b2
  | 0x9 => decodeRow9 (op.toNat % 16) op b1 b2
  | 0xA => decodeRowA (op.toNat % 16) op b1 b2
  | 0xB => decodeRowB (op.toNat % 16) op b1 b2
  | 0xC => decodeRowC (op.toNat % 16) op b1 b2
  | 0xD => decodeRowD (op.toNat % 16) op b1 b2
  | 0xE => decodeRowE (op.toNat % 16) op b1 b2
  | _ => decodeRowF (op.toNat % 16) op b1 b2

/-- The length of the instruction an opcode byte begins (R56: "The length is fixed by the opcode alone"). -/
def opcodeLength (op : Byte) : Nat := (decodeOpcode op 0 0).length

/-- Why a list of bytes is no instruction. No byte is rejected as such (R72: decode always succeeds); the bytes can only
be too few. -/
inductive DecodeError where
  /-- There is no byte at all. -/
  | noOpcode
  /-- The list ends before the operand bytes of this opcode do. -/
  | truncated (opcode : Byte)
  deriving DecidableEq, Repr

/-- Decoding a list of bytes: the instruction at its head and the bytes after it. -/
def decode : List Byte → Except DecodeError (Instr × List Byte)
  | [] => .error .noOpcode
  | op :: rest =>
    if opcodeLength op = 1 then .ok (decodeOpcode op 0 0, rest)
    else if opcodeLength op = 2 then
      match rest with
      | b1 :: rest' => .ok (decodeOpcode op b1 0, rest')
      | []          => .error (.truncated op)
    else
      match rest with
      | b1 :: b2 :: rest' => .ok (decodeOpcode op b1 b2, rest')
      | _                 => .error (.truncated op)

/-- The bytes of a number, the least significant first (the first byte of an instruction is at the lowest address). -/
def bytesOfNat (w : Nat) : Nat → List Byte
  | 0     => []
  | n + 1 => BitVec.ofNat 8 w :: bytesOfNat (w / 256) n

/-- The three bytes of an instruction whose first `nbits` bits are `w` and whose other bits are 0. Three bytes is the
longest instruction (R10). -/
def tableBytes (nbits w : Nat) : List Byte := bytesOfNat (w % 2 ^ nbits) 3

/-- The instruction the decoder reads from an instruction whose bits are `w`, bit 0 the least significant bit of the
opcode byte, every bit above `nbits` being 0. -/
def decodeTableWord (nbits w : Nat) : Option Instr :=
  match decode (tableBytes nbits w) with
  | .ok (i, _) => some i
  | .error _   => none

/-! The encoder. -/

/-- The "Encoding" line of each instruction's rule: the opcode byte of each mode it accepts. -/
def Instr.encodings : Instr → List (Mode × Byte)
  | .adc _ =>
    [(.immediate, 0x69), (.zeroPage, 0x65), (.zeroPageX, 0x75), (.absolute, 0x6D),
     (.absoluteX, 0x7D), (.absoluteY, 0x79), (.indirectPreIndexed, 0x61), (.indirectPostIndexed, 0x71)]
  | .and _ =>
    [(.immediate, 0x29), (.zeroPage, 0x25), (.zeroPageX, 0x35), (.absolute, 0x2D),
     (.absoluteX, 0x3D), (.absoluteY, 0x39), (.indirectPreIndexed, 0x21), (.indirectPostIndexed, 0x31)]
  | .asl _ => [(.accumulator, 0x0A), (.zeroPage, 0x06), (.zeroPageX, 0x16), (.absolute, 0x0E), (.absoluteX, 0x1E)]
  | .bcc _ => [(.relative, 0x90)]
  | .bcs _ => [(.relative, 0xB0)]
  | .beq _ => [(.relative, 0xF0)]
  | .bit _ => [(.zeroPage, 0x24), (.absolute, 0x2C)]
  | .bmi _ => [(.relative, 0x30)]
  | .bne _ => [(.relative, 0xD0)]
  | .bpl _ => [(.relative, 0x10)]
  | .brk => [(.implied, 0x00)]
  | .bvc _ => [(.relative, 0x50)]
  | .bvs _ => [(.relative, 0x70)]
  | .clc => [(.implied, 0x18)]
  | .cld => [(.implied, 0xD8)]
  | .cli => [(.implied, 0x58)]
  | .clv => [(.implied, 0xB8)]
  | .cmp _ =>
    [(.immediate, 0xC9), (.zeroPage, 0xC5), (.zeroPageX, 0xD5), (.absolute, 0xCD),
     (.absoluteX, 0xDD), (.absoluteY, 0xD9), (.indirectPreIndexed, 0xC1), (.indirectPostIndexed, 0xD1)]
  | .cpx _ => [(.immediate, 0xE0), (.zeroPage, 0xE4), (.absolute, 0xEC)]
  | .cpy _ => [(.immediate, 0xC0), (.zeroPage, 0xC4), (.absolute, 0xCC)]
  | .dec _ => [(.zeroPage, 0xC6), (.zeroPageX, 0xD6), (.absolute, 0xCE), (.absoluteX, 0xDE)]
  | .dex => [(.implied, 0xCA)]
  | .dey => [(.implied, 0x88)]
  | .eor _ =>
    [(.immediate, 0x49), (.zeroPage, 0x45), (.zeroPageX, 0x55), (.absolute, 0x4D),
     (.absoluteX, 0x5D), (.absoluteY, 0x59), (.indirectPreIndexed, 0x41), (.indirectPostIndexed, 0x51)]
  | .inc _ => [(.zeroPage, 0xE6), (.zeroPageX, 0xF6), (.absolute, 0xEE), (.absoluteX, 0xFE)]
  | .inx => [(.implied, 0xE8)]
  | .iny => [(.implied, 0xC8)]
  | .jmp _ => [(.absolute, 0x4C), (.indirect, 0x6C)]
  | .jsr _ => [(.absolute, 0x20)]
  | .lda _ =>
    [(.immediate, 0xA9), (.zeroPage, 0xA5), (.zeroPageX, 0xB5), (.absolute, 0xAD),
     (.absoluteX, 0xBD), (.absoluteY, 0xB9), (.indirectPreIndexed, 0xA1), (.indirectPostIndexed, 0xB1)]
  | .ldx _ => [(.immediate, 0xA2), (.zeroPage, 0xA6), (.zeroPageY, 0xB6), (.absolute, 0xAE), (.absoluteY, 0xBE)]
  | .ldy _ => [(.immediate, 0xA0), (.zeroPage, 0xA4), (.zeroPageX, 0xB4), (.absolute, 0xAC), (.absoluteX, 0xBC)]
  | .lsr _ => [(.accumulator, 0x4A), (.zeroPage, 0x46), (.zeroPageX, 0x56), (.absolute, 0x4E), (.absoluteX, 0x5E)]
  | .nop => [(.implied, 0xEA)]
  | .ora _ =>
    [(.immediate, 0x09), (.zeroPage, 0x05), (.zeroPageX, 0x15), (.absolute, 0x0D),
     (.absoluteX, 0x1D), (.absoluteY, 0x19), (.indirectPreIndexed, 0x01), (.indirectPostIndexed, 0x11)]
  | .pha => [(.implied, 0x48)]
  | .php => [(.implied, 0x08)]
  | .pla => [(.implied, 0x68)]
  | .plp => [(.implied, 0x28)]
  | .rol _ => [(.accumulator, 0x2A), (.zeroPage, 0x26), (.zeroPageX, 0x36), (.absolute, 0x2E), (.absoluteX, 0x3E)]
  | .ror _ => [(.accumulator, 0x6A), (.zeroPage, 0x66), (.zeroPageX, 0x76), (.absolute, 0x6E), (.absoluteX, 0x7E)]
  | .rti => [(.implied, 0x40)]
  | .rts => [(.implied, 0x60)]
  | .sbc _ =>
    [(.immediate, 0xE9), (.zeroPage, 0xE5), (.zeroPageX, 0xF5), (.absolute, 0xED),
     (.absoluteX, 0xFD), (.absoluteY, 0xF9), (.indirectPreIndexed, 0xE1), (.indirectPostIndexed, 0xF1)]
  | .sec => [(.implied, 0x38)]
  | .sed => [(.implied, 0xF8)]
  | .sei => [(.implied, 0x78)]
  | .sta _ =>
    [(.zeroPage, 0x85), (.zeroPageX, 0x95), (.absolute, 0x8D),
     (.absoluteX, 0x9D), (.absoluteY, 0x99), (.indirectPreIndexed, 0x81), (.indirectPostIndexed, 0x91)]
  | .stx _ => [(.zeroPage, 0x86), (.zeroPageY, 0x96), (.absolute, 0x8E)]
  | .sty _ => [(.zeroPage, 0x84), (.zeroPageX, 0x94), (.absolute, 0x8C)]
  | .tax => [(.implied, 0xAA)]
  | .tay => [(.implied, 0xA8)]
  | .tsx => [(.implied, 0xBA)]
  | .txa => [(.implied, 0x8A)]
  | .txs => [(.implied, 0x9A)]
  | .tya => [(.implied, 0x98)]
  | .ill op => [(.implied, op)]

/-- The opcode byte of an instruction; none where its handler does not accept its mode. -/
def Instr.opcode? (i : Instr) : Option Byte := i.encodings.lookup i.mode

/-- The operand bytes of an operand form (R57): an absolute address has its low byte first. -/
def Operand.bytes : Operand → List Byte
  | .imm v => [v]
  | .zp z | .zpX z | .zpY z | .indX z | .indY z => [z]
  | .abs a | .absX a | .absY a => [loByte a, hiByte a]

/-- The operand bytes of a shift's operand. -/
def ShiftOperand.bytes : ShiftOperand → List Byte
  | .acc   => []
  | .mem o => o.bytes

/-- The operand bytes of JMP. -/
def JumpOperand.bytes : JumpOperand → List Byte
  | .abs a | .ind a => [loByte a, hiByte a]

/-- The operand bytes of an instruction (R57). -/
def Instr.operandBytes : Instr → List Byte
  | .adc o | .and o | .bit o | .cmp o | .cpx o | .cpy o | .dec o | .eor o | .inc o
  | .lda o | .ldx o | .ldy o | .ora o | .sbc o | .sta o | .stx o | .sty o => o.bytes
  | .asl o | .lsr o | .rol o | .ror o => o.bytes
  | .bcc d | .bcs d | .beq d | .bmi d | .bne d | .bpl d | .bvc d | .bvs d => [d]
  | .jmp o => o.bytes
  | .jsr a => [loByte a, hiByte a]
  | .brk | .clc | .cld | .cli | .clv | .dex | .dey | .inx | .iny | .nop | .pha | .php | .pla | .plp
  | .rti | .rts | .sec | .sed | .sei | .tax | .tay | .tsx | .txa | .txs | .tya => []
  | .ill _ => []

/-- The bytes of a well-formed instruction, the opcode first (R55); the empty list for an instruction no opcode byte
stands for. -/
def encode (i : Instr) : List Byte :=
  match i.opcode? with
  | some op => op :: i.operandBytes
  | none    => []

end Sys2Proof
end

