-- ==== Sys2Proof/Machine/Flags.lean ====
section
/-! DEFINITION. The status byte's flags (10_state.md R25 to R34) and every flag and ALU computation: the ALU
(42_arithmetic_logic.md R120 to R128) and the shifter (43_shift_rotate.md R150 to R153). -/
namespace Sys2Proof.Machine

/-- The six named flags of P (R25). -/
inductive Flag where
  | carry | zero | interruptDisable | decimal | overflow | negative
  deriving DecidableEq, Repr

/-- The bit of P a flag is (R25). -/
def Flag.bit : Flag → Nat
  | .carry            => 0
  | .zero             => 1
  | .interruptDisable => 2
  | .decimal          => 3
  | .overflow         => 6
  | .negative         => 7

/-- The value of a flag in a status byte. -/
def getFlag (p : Byte) (f : Flag) : Bool := p.getLsbD f.bit

/-- The status byte that has this flag alone. -/
def Flag.mask (f : Flag) : Byte := 0x01#8 <<< f.bit

/-- The status byte with one flag written and every other bit unchanged (R14). -/
def setFlag (p : Byte) (f : Flag) (b : Bool) : Byte :=
  if b then p ||| f.mask else p &&& ~~~f.mask

/-- `setNZ(v)`: `Z <- (v == 0); N <- v[7]`, the other bits unchanged (R27). -/
def setNZ (p v : Byte) : Byte :=
  setFlag (setFlag p .zero (v == 0)) .negative (v.getLsbD 7)

/-- The status byte PHP and BRK push: bits 4 and 5 are 1 (R26, R181, R192). -/
def pushedStatus (p : Byte) : Byte := p ||| 0x30

/-- The status after PLP or RTI pulled `v`: bits 4 and 5 keep their values (R26, R183, R193). -/
def pulledStatus (p v : Byte) : Byte := (v &&& 0xCF) ||| (p &&& 0x30)

/-- What ADD and SUB give (R120): the result, the carry-out and the overflow. -/
structure AluResult where
  value    : Byte
  carry    : Bool
  overflow : Bool
  deriving DecidableEq, Repr

/-- ADD with carry, on naturals (R121). -/
def addWithCarry (a b : Byte) (cin : Bool) : AluResult :=
  let sum : Nat := a.toNat + b.toNat + cin.toNat
  let r : Byte := BitVec.ofNat 8 sum
  { value := r, carry := decide (0x100 ≤ sum), overflow := ((a ^^^ r) &&& (b ^^^ r) &&& 0x80) != 0 }

/-- SUB with borrow, on integers (R122): the borrow-in is `1 - cin`. -/
def subWithBorrow (a b : Byte) (cin : Bool) : AluResult :=
  let diff : Int := (a.toNat : Int) - (b.toNat : Int) - (1 - (cin.toNat : Int))
  let r : Byte := BitVec.ofInt 8 diff
  { value := r, carry := decide (0 ≤ diff), overflow := ((a ^^^ b) &&& (a ^^^ r) &&& 0x80) != 0 }

/-- The flags ADC and SBC write from the ALU's result: C, V, and N and Z by `setNZ` (R130, R131). -/
def arithmeticFlags (p : Byte) (r : AluResult) : Byte :=
  setNZ (setFlag (setFlag p .carry r.carry) .overflow r.overflow) r.value

/-- CMP of a register value with an operand: C is the unsigned comparison, N and Z those of the difference (R123). -/
def compareFlags (p a b : Byte) : Byte :=
  setNZ (setFlag p .carry (decide (b.toNat ≤ a.toNat))) (a - b)

/-- BIT test: `Z <- ((a & b) == 0)`, `N <- b[7]`, `V <- b[6]` (R127). -/
def bitTestFlags (p a b : Byte) : Byte :=
  setFlag (setFlag (setFlag p .zero (a &&& b == 0)) .negative (b.getLsbD 7)) .overflow (b.getLsbD 6)

/-- What a shift or rotate by one gives: the result and the bit shifted out. -/
structure ShiftResult where
  value : Byte
  carry : Bool
  deriving DecidableEq, Repr

/-- ASL (R150): bit 0 of the result is 0. -/
def shiftLeft (v : Byte) : ShiftResult := { value := v <<< 1, carry := v.getLsbD 7 }

/-- LSR (R151): bit 7 of the result is 0. -/
def shiftRight (v : Byte) : ShiftResult := { value := v >>> 1, carry := v.getLsbD 0 }

/-- ROL (R152): the old carry enters at bit 0. -/
def rotateLeft (v : Byte) (cin : Bool) : ShiftResult :=
  { value := (v <<< 1) ||| (if cin then 0x01 else 0x00), carry := v.getLsbD 7 }

/-- ROR (R153): the old carry enters at bit 7. -/
def rotateRight (v : Byte) (cin : Bool) : ShiftResult :=
  { value := (v >>> 1) ||| (if cin then 0x80 else 0x00), carry := v.getLsbD 0 }

/-- The flags a shift or rotate writes: C is the bit shifted out, N and Z those of the result (R150 to R153). -/
def shiftFlags (p : Byte) (r : ShiftResult) : Byte := setNZ (setFlag p .carry r.carry) r.value

end Sys2Proof.Machine
end

