-- ==== Sys2Proof/Machine/Memory.lean ====
section
/-! DEFINITION. Memory as a list of (address, byte) pairs in one canonical form: addresses strictly rising and below
65536 (20_memory.md R40), and no entry equal to what an unlisted address reads as. -/
namespace Sys2Proof.Machine

/-- What an unlisted address of plain RAM reads as. DESIGN CHOICE (log entry 2), unsafe: the spec leaves it to the platform
(R41, D26); 0x00 is the port 95_test_vectors.md assumes ("0x00 if none was written"). -/
def unlistedByte : Byte := 0x00

/-- The byte at an address. -/
def memRead : List Host.Cell → Nat → Byte
  | [], _ => unlistedByte
  | (a, v) :: rest, n => if n = a then v else memRead rest n

/-- A cell in front of a memory, but for a value that an unlisted address reads as. -/
def memCons (n : Nat) (v : Byte) (m : List Host.Cell) : List Host.Cell :=
  if v = unlistedByte then m else (n, v) :: m

/-- The memory with one byte written. It keeps the canonical form: writing `unlistedByte` removes the entry. -/
def memWrite : List Host.Cell → Nat → Byte → List Host.Cell
  | [], n, v => memCons n v []
  | (a, w) :: rest, n, v =>
    if n < a then memCons n v ((a, w) :: rest)
    else if n = a then memCons n v rest
    else (a, w) :: memWrite rest n v

/-- The addresses of a memory are at least `low`, rise strictly and stay below 65536, and no byte listed is
`unlistedByte`. -/
def memWfFrom : Nat → List Host.Cell → Bool
  | _, [] => true
  | low, (a, v) :: rest => decide (low ≤ a) && decide (a < 65536) && decide (v ≠ unlistedByte) && memWfFrom (a + 1) rest

/-- The canonical form of memory. -/
def memWf (m : List Host.Cell) : Bool := memWfFrom 0 m

end Sys2Proof.Machine
end

