-- ==== Sys2Proof/Config.lean ====
section
/-! DEFINITION. The named parameters of 00_scope.md R11, and the free value of the model: what the Memory Port
answers where it is not plain RAM (20_memory.md R41). -/
namespace Sys2Proof

/-- The two values `P_RESET` may have (R11, D5): 0x24 or 0x34. -/
inductive PReset where
  | p24
  | p34
  deriving DecidableEq, Repr

/-- The status byte at power-on and reset (R39, R231). -/
def PReset.value : PReset → Byte
  | .p24 => 0x24
  | .p34 => 0x34

/-- `CYCLE_MODEL` (R11, D2): what the cycle counter counts. -/
inductive CycleModel where
  /-- Base cost per opcode plus penalties (R92). -/
  | table
  /-- Memory Port accesses plus penalties (R95). -/
  | accessCount
  deriving DecidableEq, Repr

/-- `ILLEGAL_OPCODE_POLICY` (R11, D12). -/
inductive IllegalPolicy where
  /-- An illegal byte is a 1-byte no-op (R194). -/
  | nop
  /-- An illegal byte has no meaning (R195). -/
  | refuse
  deriving DecidableEq, Repr

/-- What is fixed when the block is built (R6, R11). `openRegions` describes the Memory Port the block is bound to
(D26): each pair is an inclusive range of addresses behind which there is not plain RAM, so that a read there is
answered by `Config.portByte`. An address in no range is plain RAM. -/
structure Config where
  pReset        : PReset
  cycleModel    : CycleModel
  counterWidth  : Nat
  illegalPolicy : IllegalPolicy
  openRegions   : List (Nat × Nat)
  deriving DecidableEq, Repr

/-- The defaults of R11; for the two OPEN parameters, the values 95_test_vectors.md assumes: `P_RESET = 0x24` and a
plain RAM port. DESIGN CHOICE (log entries 3 and 4), unsafe for a claim that rests on `State.reset` alone. -/
def Config.standard : Config :=
  { pReset := .p24, cycleModel := .table, counterWidth := 8, illegalPolicy := .nop, openRegions := [] }

/-- FREE VALUE (log entry 4): the byte the Memory Port answers to its `n`-th access, a read of the address, where that
address is not plain RAM. R41: "A model should treat the port as an oracle that answers each read with any byte."
Nothing constrains it. -/
opaque Config.portByte (n : Nat) (address : Word) : Byte

end Sys2Proof
end

