-- ==== Sys2Proof/Machine/State.lean ====
section
/-! DEFINITION. The state of the block as plain data (10_state.md), the reasons a step can stop, the power-on state and
the state right after reset. -/
namespace Sys2Proof.Machine

/-- One Memory Port operation (00_scope.md R6): a read with the byte the port answered, or a write. -/
inductive Access where
  | read  (address : Word) (value : Byte)
  | write (address : Word) (value : Byte)
  deriving DecidableEq, Repr

/-- The state. The registers are those of R20; `cycles` is the cycle counter (R36). The rest is not the register file's:
`mem` is the memory behind the port, in the canonical form of `memWf`; `bus` is what the port has seen in the current (or,
between transactions, the last) transaction, the oldest access first (R7, R50), so its length is the tally `cycles_acc`
of R70; `portSeq` counts the accesses since power-on and serves only as the argument of `Config.portByte`; `cfg` holds the
parameters of R11, which nothing changes. -/
structure State where
  a       : Byte
  x       : Byte
  y       : Byte
  sp      : Byte
  p       : Byte
  pc      : Word
  cycles  : Nat
  mem     : List Host.Cell
  bus     : List Access
  portSeq : Nat
  cfg     : Config
  deriving DecidableEq, Repr

/-- There is no fault: "The CPU core has no recoverable-error taxonomy of its own" (R9), and no opcode, operand, address,
result or stack state causes a trap, fault or abort (R210). Nobody raises one; that no reason is listed is safe. -/
inductive Fault where
  deriving DecidableEq, Repr

/-- Why a step is refused. -/
inductive Refusal where
  /-- An arm of `exec` whose instruction has no meaning in the model. Raised by no arm: every instruction has its
  meaning. Safe: the model stops where the hardware goes on. -/
  | notModelled (mnemonic : String)
  /-- An illegal opcode under `ILLEGAL_OPCODE_POLICY = REFUSE` (R195). Raised by the meaning of ILL under that parameter
  value alone. Safe: "Refusal errs toward unprovable" (R195). -/
  | illegalOpcode (opcode : Byte)
  deriving DecidableEq, Repr

/-- The state of the block when it is built, with its parameters (R39, R230): no access has happened. -/
def State.powerOn (cfg : Config) : State :=
  { a := 0x00, x := 0x00, y := 0x00, sp := 0xFD, p := cfg.pReset.value, pc := 0x0000, cycles := 0
    mem := [], bus := [], portSeq := 0, cfg := cfg }

/-- The state right after the `reset` transaction of a block just built with the standard parameters (R231, R232): the two
bytes of the reset vector have been read, and memory lists nothing, so both are 0x00 (log entry 2) and PC is 0x0000. -/
def State.reset : State :=
  { a := 0x00, x := 0x00, y := 0x00, sp := 0xFD, p := 0x24, pc := 0x0000, cycles := 0
    mem := [], bus := [.read 0xFFFC 0x00, .read 0xFFFD 0x00], portSeq := 2, cfg := .standard }

end Sys2Proof.Machine
end

