-- ==== Sys2Proof/Machine/Timing.lean ====
section
/-! DEFINITION. The cycle counter (40_step_and_addressing.md R91 to R96): base costs (30 R60), penalty classes (R61), the
penalties (R93, R94) and the cost of a step under either cycle model (R92, R95). -/
namespace Sys2Proof.Machine

/-- The classes of instructions R60 gives base costs for. -/
inductive CostClass where
  | read | write | readModifyWrite | branch | jmp | jsr | rts | rti | brk | push | pull | otherImplied | illegal
  deriving DecidableEq, Repr

/-- The row "read" of R60: ADC AND BIT CMP CPX CPY EOR LDA LDX LDY ORA SBC. -/
def readCost : Mode → Nat
  | .immediate => 2
  | .zeroPage => 3
  | .zeroPageX | .zeroPageY => 4
  | .absolute => 4
  | .absoluteX | .absoluteY => 4
  | .indirectPreIndexed => 6
  | .indirectPostIndexed => 5
  | _ => 0

/-- The row "write" of R60: STA STX STY. -/
def writeCost : Mode → Nat
  | .zeroPage => 3
  | .zeroPageX | .zeroPageY => 4
  | .absolute => 4
  | .absoluteX | .absoluteY => 5
  | .indirectPreIndexed => 6
  | .indirectPostIndexed => 6
  | _ => 0

/-- The row "read-modify-write" of R60: ASL LSR ROL ROR INC DEC. -/
def readModifyWriteCost : Mode → Nat
  | .accumulator => 2
  | .zeroPage => 5
  | .zeroPageX | .zeroPageY => 6
  | .absolute => 6
  | .absoluteX | .absoluteY => 7
  | _ => 0

/-- The row "JMP" of R60. -/
def jmpCost : Mode → Nat
  | .absolute => 3
  | .indirect => 5
  | _ => 0

/-- The base cost of an instruction by its class and mode (R60). A mode for which R60 has a dash costs 0: no opcode byte
stands for it, and `Instr.wellFormed` refuses it. -/
def baseCost : CostClass → Mode → Nat
  | .read, m            => readCost m
  | .write, m           => writeCost m
  | .readModifyWrite, m => readModifyWriteCost m
  | .branch, _          => 2
  | .jmp, m             => jmpCost m
  | .jsr, _             => 6
  | .rts, _             => 6
  | .rti, _             => 6
  | .brk, _             => 7
  | .push, _            => 3
  | .pull, _            => 4
  | .otherImplied, _    => 2
  | .illegal, _         => 2

/-- The penalty classes of R61. -/
inductive Penalty where
  | none | pageCross | branch
  deriving DecidableEq, Repr

/-- `pen` (R61): the page-cross penalty applies to the read class in the modes that can cross, the branch penalty to the
conditional branches. -/
def penaltyClass : CostClass → Mode → Penalty
  | .read, .absoluteX | .read, .absoluteY | .read, .indirectPostIndexed => .pageCross
  | .branch, _ => .branch
  | _, _ => .none

/-- The page-cross penalty (R93). -/
def pagePenalty (c : CostClass) (m : Mode) (crossed : Bool) : Nat :=
  if penaltyClass c m = .pageCross ∧ crossed = true then 1 else 0

/-- The branch penalty (R94): the crossing is measured from the address after the branch. -/
def branchPenalty (taken : Bool) (target nextPC : Word) : Nat :=
  if taken then (if hiByte target = hiByte nextPC then 1 else 2) else 0

/-- The cost of a step (R92, R95), from its base cost, the number of accesses it made and its penalty. -/
def stepCost (model : CycleModel) (base accesses penalty : Nat) : Nat :=
  match model with
  | .table       => base + penalty
  | .accessCount => accesses + penalty

/-- What the cycle counter of a given width holds after a step of a given cost (R36). -/
def counterValue (width cost : Nat) : Nat := cost % 2 ^ width

end Sys2Proof.Machine
end

