-- ==== Sys2Proof/Machine/Ops.lean ====
section
/-! DEFINITION. The named operations over the state: register writes, the Memory Port (20_memory.md), the stack
primitives, trap entry and return (60_exceptions.md R215, R216), and the end of a step (40 R70). -/
namespace Sys2Proof.Machine

/-! Register writes (R14: "`A <- v` writes one"). -/

/-- `A <- v`. -/
def State.setA (s : State) (v : Byte) : State := { s with a := v }

/-- `X <- v`. -/
def State.setX (s : State) (v : Byte) : State := { s with x := v }

/-- `Y <- v`. -/
def State.setY (s : State) (v : Byte) : State := { s with y := v }

/-- `SP <- v`. -/
def State.setSP (s : State) (v : Byte) : State := { s with sp := v }

/-- `P <- v`. -/
def State.setP (s : State) (v : Byte) : State := { s with p := v }

/-- `setNZ(v)` on P (R27). -/
def State.withNZ (s : State) (v : Byte) : State := s.setP (setNZ s.p v)

/-- One flag of P written (R14). -/
def State.withFlag (s : State) (f : Flag) (b : Bool) : State := s.setP (setFlag s.p f b)

/-! The Memory Port (R6, R40, R41, R48, R50). -/

/-- The address is not plain RAM behind this port (D26). -/
def openAt (cfg : Config) (address : Word) : Bool :=
  cfg.openRegions.any fun r => decide (r.1 ≤ address.toNat) && decide (address.toNat ≤ r.2)

/-- The byte the port answers to a read now: memory's where it is plain RAM, any byte elsewhere (R41). -/
def State.answer (s : State) (address : Word) : Byte :=
  if openAt s.cfg address then Config.portByte s.portSeq address else memRead s.mem address.toNat

/-- `MemRead(a, 1)`: the byte, and the state in which the port has seen the read. -/
def State.portRead (s : State) (address : Word) : Byte × State :=
  (s.answer address,
   { s with bus := s.bus ++ [.read address (s.answer address)], portSeq := s.portSeq + 1 })

/-- `MemWrite(a, 1, v)`. At an address that is not plain RAM the byte written is kept too, but no read ever asks for it. -/
def State.portWrite (s : State) (address : Word) (v : Byte) : State :=
  { s with
    mem := memWrite s.mem address.toNat v, bus := s.bus ++ [.write address v], portSeq := s.portSeq + 1 }

/-- A 16-bit value read in two accesses, the low byte first (R43, R49). -/
def State.portReadWord (s : State) (lowAddress highAddress : Word) : Word × State :=
  let lo := s.portRead lowAddress
  let hi := lo.2.portRead highAddress
  (wordOf hi.1 lo.1, hi.2)

/-! The stack (R45 to R47). -/

/-- The address in the stack page that a stack pointer value points at: `0x0100 | SP` (R45). -/
def stackAddress (sp : Byte) : Word := 0x0100 ||| zext16 sp

/-- `Push(v)`: write, then decrement SP (R45). -/
def State.push (s : State) (v : Byte) : State := (s.portWrite (stackAddress s.sp) v).setSP (s.sp - 1)

/-- `Pull()`: increment SP, then read (R46). -/
def State.pull (s : State) : Byte × State := (s.setSP (s.sp + 1)).portRead (stackAddress (s.sp + 1))

/-- A 16-bit value pushed high byte first (R43, R172, R192). -/
def State.pushWord (s : State) (w : Word) : State := (s.push (hiByte w)).push (loByte w)

/-- A 16-bit value pulled low byte first (R173, R193). -/
def State.pullWord (s : State) : Word × State :=
  let lo := s.pull
  let hi := lo.2.pull
  (wordOf hi.1 lo.1, hi.2)

/-! Trap entry and return (R215, R216). -/

/-- The address of the IRQ/BRK vector's low byte (R42). -/
def breakVector : Word := 0xFFFE

/-- Trap entry (R215): the return address and the status are pushed, I is set, and the handler's address is read at the
vector. Answers that address. -/
def State.enterTrap (s : State) (returnAddress : Word) : Word × State :=
  let pushed := (s.pushWord returnAddress).push (pushedStatus s.p)
  (pushed.withFlag .interruptDisable true).portReadWord breakVector (breakVector + 1)

/-- Trap return (R216): the status is pulled (bits 4 and 5 keep their values), then the PC, low byte first. Answers the
PC. -/
def State.leaveTrap (s : State) : Word × State :=
  let status := s.pull
  (status.2.setP (pulledStatus s.p status.1)).pullWord

/-! The two ends of a step (R70, R91). -/

/-- The start of a step: `cycles_acc <- 0`, the cycle counter 0, and no access of this step made yet. -/
def State.beginStep (s : State) : State := { s with cycles := 0, bus := [] }

/-- The end of a step: `PC <- newPC; cycles <- Cost(...)`, from the instruction's class, mode and penalty and the accesses
of the step. -/
def State.retire (s : State) (newPC : Word) (c : CostClass) (m : Mode) (penalty : Nat) : State :=
  { s with
    pc := newPC
    cycles := counterValue s.cfg.counterWidth
      (stepCost s.cfg.cycleModel (baseCost c m) s.bus.length penalty) }

end Sys2Proof.Machine
end

