-- ==== Sys2Proof/Machine/Operands.lean ====
section
/-! DEFINITION. The addressing-mode decoder (40_step_and_addressing.md R77 to R90) and the shapes of data access built on
it (R97): reading an operand, storing to it, and read-modify-write. The operand bytes themselves have been read when the
instruction was fetched (R76: "All instruction bytes are therefore read before any data access"). -/
namespace Sys2Proof.Machine

/-- What `Resolve` gives (R77): the effective address, the page-crossed signal, and the state after its pointer reads. -/
structure Resolved where
  ea      : Word
  crossed : Bool
  state   : State
  deriving DecidableEq, Repr

/-- An indexed 16-bit address: the sum wraps, and `crossed` says that its high byte differs from the base's (R86, R87,
R90). -/
def indexed (base : Word) (index : Byte) (s : State) : Resolved :=
  { ea := base + zext16 index
    crossed := hiByte (base + zext16 index) != hiByte base
    state := s }

/-- The 16-bit value at a zero-page pointer, its high byte read inside page 0 too (R44, R89, R90). -/
def State.zeroPageWord (s : State) (pointer : Byte) : Word × State :=
  s.portReadWord (zext16 pointer) (zext16 (pointer + 1))

/-- `Resolve` for the forms with a byte of memory as their operand. -/
def resolve (o : Operand) (s : State) : Resolved :=
  match o with
  | .imm _  => { ea := s.pc + 1, crossed := false, state := s }                     -- R80
  | .zp z   => { ea := zext16 z, crossed := false, state := s }                     -- R82
  | .zpX z  => { ea := zext16 (z + s.x), crossed := false, state := s }             -- R83
  | .zpY z  => { ea := zext16 (z + s.y), crossed := false, state := s }             -- R84
  | .abs a  => { ea := a, crossed := false, state := s }                            -- R85
  | .absX a => indexed a s.x s                                                      -- R86
  | .absY a => indexed a s.y s                                                      -- R87
  | .indX z =>                                                                      -- R89
    let target := s.zeroPageWord (z + s.x)
    { ea := target.1, crossed := false, state := target.2 }
  | .indY z =>                                                                      -- R90
    let base := s.zeroPageWord z
    indexed base.1 s.y base.2

/-- The target of a jump through a pointer, with the page-wrap bug: the high byte stays in the pointer's page (R88). -/
def State.indirectTarget (s : State) (pointer : Word) : Word × State :=
  s.portReadWord pointer (wordOf (hiByte pointer) (loByte pointer + 1))

/-- An operand that has been read: its value, the page-crossed signal, and the state after the accesses. -/
structure Loaded where
  value   : Byte
  crossed : Bool
  state   : State
  deriving DecidableEq, Repr

/-- The data read of an operand: `M <- MemRead(EA, 1)` (R97). The byte of an immediate operand is at PC+1 and was read when
the instruction was fetched, in the same place of the access order (R80; log entry 5). -/
def loadOperand (o : Operand) (s : State) : Loaded :=
  match o with
  | .imm v => { value := v, crossed := false, state := s }
  | o =>
    let r := resolve o s
    let m := r.state.portRead r.ea
    { value := m.1, crossed := r.crossed, state := m.2 }

/-- The address after the instruction, `nextPC = (PC + len) mod 65536` (R74). -/
def State.nextPC (s : State) (m : Mode) : Word := s.pc + BitVec.ofNat 16 m.length

/-- An instruction of the read class: the operand is read, `f` says what it does to the registers, PC goes to nextPC. -/
def readInstr (o : Operand) (f : Byte → State → State) (s : State) : State :=
  let m := loadOperand o s
  (f m.value m.state).retire (s.nextPC o.mode) .read o.mode (pagePenalty .read o.mode m.crossed)

/-- An instruction of the write class: one write of `v` at EA and no read of it (R97). -/
def storeInstr (o : Operand) (v : Byte) (s : State) : State :=
  let r := resolve o s
  (r.state.portWrite r.ea v).retire (s.nextPC o.mode) .write o.mode (pagePenalty .write o.mode r.crossed)

/-- A read-modify-write instruction on memory: one read at EA, then one write of the new value there (R154). `f` gives the
new value and the new status from the old ones. -/
def modifyMemory (o : Operand) (f : Byte → Byte → Byte × Byte) (s : State) : State :=
  let r := resolve o s
  let m := r.state.portRead r.ea
  let new := f m.1 s.p
  ((m.2.portWrite r.ea new.1).setP new.2).retire (s.nextPC o.mode) .readModifyWrite o.mode
    (pagePenalty .readModifyWrite o.mode r.crossed)

/-- The same on the accumulator, without any data access (R79, 43_shift_rotate.md `load` and `store`). -/
def modifyAccumulator (f : Byte → Byte → Byte × Byte) (s : State) : State :=
  ((s.setA (f s.a s.p).1).setP (f s.a s.p).2).retire (s.nextPC .accumulator) .readModifyWrite .accumulator 0

/-- A shift or rotate on either operand (43_shift_rotate.md). -/
def modifyInstr (o : ShiftOperand) (f : Byte → Byte → Byte × Byte) (s : State) : State :=
  match o with
  | .acc   => modifyAccumulator f s
  | .mem o => modifyMemory o f s

/-- An Implied instruction that only changes registers: `f` says how, PC goes to nextPC (R78). -/
def impliedInstr (f : State → State) (s : State) : State :=
  (f s).retire (s.nextPC .implied) .otherImplied .implied 0

/-- A conditional branch (44_control_transfer.md R160): the displacement counts from the address after the branch. -/
def branchInstr (taken : Bool) (displacement : Byte) (s : State) : State :=
  let next := s.nextPC .relative
  let target := next + sext16 displacement
  s.retire (if taken then target else next) .branch .relative (branchPenalty taken target next)

end Sys2Proof.Machine
end

