-- ==== Sys2Proof/Machine/Arithmetic.lean ====
section
/-! DEFINITION. Arithmetic, logic, compare, increment and decrement (42_arithmetic_logic.md R130 to R144). -/
namespace Sys2Proof.Machine

/-- ADC (R130): `(r, cout, vout) <- ADD(A, M, C); A <- r; C <- cout; V <- vout; setNZ(r)`, binary whatever D holds
(R126). -/
def execAdc (o : Operand) (s : State) : Host.Outcome State Fault Refusal :=
  .next (readInstr o (fun m t =>
    let r := addWithCarry t.a m (getFlag t.p .carry)
    (t.setA r.value).setP (arithmeticFlags t.p r)) s)

/-- SBC (R131): the same with SUB, the borrow-in being 1 - C. -/
def execSbc (o : Operand) (s : State) : Host.Outcome State Fault Refusal :=
  .next (readInstr o (fun m t =>
    let r := subWithBorrow t.a m (getFlag t.p .carry)
    (t.setA r.value).setP (arithmeticFlags t.p r)) s)

/-- AND (R132). -/
def execAnd (o : Operand) (s : State) : Host.Outcome State Fault Refusal :=
  .next (readInstr o (fun m t => (t.setA (t.a &&& m)).withNZ (t.a &&& m)) s)

/-- ORA (R133). -/
def execOra (o : Operand) (s : State) : Host.Outcome State Fault Refusal :=
  .next (readInstr o (fun m t => (t.setA (t.a ||| m)).withNZ (t.a ||| m)) s)

/-- EOR (R134). -/
def execEor (o : Operand) (s : State) : Host.Outcome State Fault Refusal :=
  .next (readInstr o (fun m t => (t.setA (t.a ^^^ m)).withNZ (t.a ^^^ m)) s)

/-- CMP (R135): no register receives the difference. -/
def execCmp (o : Operand) (s : State) : Host.Outcome State Fault Refusal :=
  .next (readInstr o (fun m t => t.setP (compareFlags t.p t.a m)) s)

/-- CPX (R136). -/
def execCpx (o : Operand) (s : State) : Host.Outcome State Fault Refusal :=
  .next (readInstr o (fun m t => t.setP (compareFlags t.p t.x m)) s)

/-- CPY (R137). -/
def execCpy (o : Operand) (s : State) : Host.Outcome State Fault Refusal :=
  .next (readInstr o (fun m t => t.setP (compareFlags t.p t.y m)) s)

/-- BIT (R138). -/
def execBit (o : Operand) (s : State) : Host.Outcome State Fault Refusal :=
  .next (readInstr o (fun m t => t.setP (bitTestFlags t.p t.a m)) s)

/-- INC (R139): `r <- (M + 1) mod 256; MemWrite(EA, 1, r); setNZ(r)`. -/
def execInc (o : Operand) (s : State) : Host.Outcome State Fault Refusal :=
  .next (modifyMemory o (fun v p => (v + 1, setNZ p (v + 1))) s)

/-- DEC (R140). -/
def execDec (o : Operand) (s : State) : Host.Outcome State Fault Refusal :=
  .next (modifyMemory o (fun v p => (v - 1, setNZ p (v - 1))) s)

/-- INX (R141). -/
def execInx (s : State) : Host.Outcome State Fault Refusal :=
  .next (impliedInstr (fun t => (t.setX (t.x + 1)).withNZ (t.x + 1)) s)

/-- INY (R142). -/
def execIny (s : State) : Host.Outcome State Fault Refusal :=
  .next (impliedInstr (fun t => (t.setY (t.y + 1)).withNZ (t.y + 1)) s)

/-- DEX (R143). -/
def execDex (s : State) : Host.Outcome State Fault Refusal :=
  .next (impliedInstr (fun t => (t.setX (t.x - 1)).withNZ (t.x - 1)) s)

/-- DEY (R144). -/
def execDey (s : State) : Host.Outcome State Fault Refusal :=
  .next (impliedInstr (fun t => (t.setY (t.y - 1)).withNZ (t.y - 1)) s)

end Sys2Proof.Machine
end

