-- ==== Sys2Proof/Machine/Control.lean ====
section
/-! DEFINITION. Branches, jumps, subroutine call and return (44_control_transfer.md R160 to R173). -/
namespace Sys2Proof.Machine

/-- BCC (R162): taken if C = 0. -/
def execBcc (d : Byte) (s : State) : Host.Outcome State Fault Refusal :=
  .next (branchInstr (!getFlag s.p .carry) d s)

/-- BCS (R163): taken if C = 1. -/
def execBcs (d : Byte) (s : State) : Host.Outcome State Fault Refusal :=
  .next (branchInstr (getFlag s.p .carry) d s)

/-- BEQ (R164): taken if Z = 1. -/
def execBeq (d : Byte) (s : State) : Host.Outcome State Fault Refusal :=
  .next (branchInstr (getFlag s.p .zero) d s)

/-- BMI (R165): taken if N = 1. -/
def execBmi (d : Byte) (s : State) : Host.Outcome State Fault Refusal :=
  .next (branchInstr (getFlag s.p .negative) d s)

/-- BNE (R166): taken if Z = 0. -/
def execBne (d : Byte) (s : State) : Host.Outcome State Fault Refusal :=
  .next (branchInstr (!getFlag s.p .zero) d s)

/-- BPL (R167): taken if N = 0. -/
def execBpl (d : Byte) (s : State) : Host.Outcome State Fault Refusal :=
  .next (branchInstr (!getFlag s.p .negative) d s)

/-- BVC (R168): taken if V = 0. -/
def execBvc (d : Byte) (s : State) : Host.Outcome State Fault Refusal :=
  .next (branchInstr (!getFlag s.p .overflow) d s)

/-- BVS (R169): taken if V = 1. -/
def execBvs (d : Byte) (s : State) : Host.Outcome State Fault Refusal :=
  .next (branchInstr (getFlag s.p .overflow) d s)

/-- JMP (R170 absolute, R171 indirect): `pc <- EA`. -/
def execJmp (o : JumpOperand) (s : State) : Host.Outcome State Fault Refusal :=
  match o with
  | .abs a => .next (s.retire a .jmp .absolute 0)
  | .ind p => .next ((s.indirectTarget p).2.retire (s.indirectTarget p).1 .jmp .indirect 0)

/-- JSR (R172): the address of its own last byte, PC + 2, is pushed high byte first. -/
def execJsr (target : Word) (s : State) : Host.Outcome State Fault Refusal :=
  .next ((s.pushWord (s.pc + 2)).retire target .jsr .absolute 0)

/-- RTS (R173): "RTS pulls PC then increments by one". -/
def execRts (s : State) : Host.Outcome State Fault Refusal :=
  .next (s.pullWord.2.retire (s.pullWord.1 + 1) .rts .implied 0)

end Sys2Proof.Machine
end

