-- ==== Sys2Proof/Machine/LoadStore.lean ====
section
/-! DEFINITION. Loads, stores and register transfers (41_load_store_transfer.md R100 to R111). -/
namespace Sys2Proof.Machine

/-- LDA (R100): `M <- MemRead(EA, 1); A <- M; setNZ(A)`. -/
def execLda (o : Operand) (s : State) : Host.Outcome State Fault Refusal :=
  .next (readInstr o (fun m t => (t.setA m).withNZ m) s)

/-- LDX (R101). -/
def execLdx (o : Operand) (s : State) : Host.Outcome State Fault Refusal :=
  .next (readInstr o (fun m t => (t.setX m).withNZ m) s)

/-- LDY (R102). -/
def execLdy (o : Operand) (s : State) : Host.Outcome State Fault Refusal :=
  .next (readInstr o (fun m t => (t.setY m).withNZ m) s)

/-- STA (R103): `MemWrite(EA, 1, A)`. -/
def execSta (o : Operand) (s : State) : Host.Outcome State Fault Refusal :=
  .next (storeInstr o s.a s)

/-- STX (R104). -/
def execStx (o : Operand) (s : State) : Host.Outcome State Fault Refusal :=
  .next (storeInstr o s.x s)

/-- STY (R105). -/
def execSty (o : Operand) (s : State) : Host.Outcome State Fault Refusal :=
  .next (storeInstr o s.y s)

/-- TAX (R106): `X <- A; setNZ(X)`. -/
def execTax (s : State) : Host.Outcome State Fault Refusal :=
  .next (impliedInstr (fun t => (t.setX t.a).withNZ t.a) s)

/-- TAY (R107). -/
def execTay (s : State) : Host.Outcome State Fault Refusal :=
  .next (impliedInstr (fun t => (t.setY t.a).withNZ t.a) s)

/-- TXA (R108). -/
def execTxa (s : State) : Host.Outcome State Fault Refusal :=
  .next (impliedInstr (fun t => (t.setA t.x).withNZ t.x) s)

/-- TYA (R109). -/
def execTya (s : State) : Host.Outcome State Fault Refusal :=
  .next (impliedInstr (fun t => (t.setA t.y).withNZ t.y) s)

/-- TSX (R110): `X <- SP; setNZ(X)`. -/
def execTsx (s : State) : Host.Outcome State Fault Refusal :=
  .next (impliedInstr (fun t => (t.setX t.sp).withNZ t.sp) s)

/-- TXS (R111): `SP <- X`, "the only transfer that writes no flag". -/
def execTxs (s : State) : Host.Outcome State Fault Refusal :=
  .next (impliedInstr (fun t => t.setSP t.x) s)

end Sys2Proof.Machine
end

