-- ==== Sys2Proof/Machine/Shift.lean ====
section
/-! DEFINITION. Shifts and rotates (43_shift_rotate.md R150 to R154). -/
namespace Sys2Proof.Machine

/-- The new value and the new status of a shift's result. -/
def shifted (p : Byte) (r : ShiftResult) : Byte × Byte := (r.value, shiftFlags p r)

/-- ASL (R150). -/
def execAsl (o : ShiftOperand) (s : State) : Host.Outcome State Fault Refusal :=
  .next (modifyInstr o (fun v p => shifted p (shiftLeft v)) s)

/-- LSR (R151). -/
def execLsr (o : ShiftOperand) (s : State) : Host.Outcome State Fault Refusal :=
  .next (modifyInstr o (fun v p => shifted p (shiftRight v)) s)

/-- ROL (R152): the old C is shifted in. -/
def execRol (o : ShiftOperand) (s : State) : Host.Outcome State Fault Refusal :=
  .next (modifyInstr o (fun v p => shifted p (rotateLeft v (getFlag p .carry))) s)

/-- ROR (R153): the old C is shifted in. -/
def execRor (o : ShiftOperand) (s : State) : Host.Outcome State Fault Refusal :=
  .next (modifyInstr o (fun v p => shifted p (rotateRight v (getFlag p .carry))) s)

end Sys2Proof.Machine
end

