-- ==== Sys2Proof/Machine/StackFlags.lean ====
section
/-! DEFINITION. Stack operations, flag instructions, NOP, BRK, RTI and illegal opcodes (45_stack_flags_system.md R180 to
R195). -/
namespace Sys2Proof.Machine

/-- PHA (R180): `Push(A)`. -/
def execPha (s : State) : Host.Outcome State Fault Refusal :=
  .next ((s.push s.a).retire (s.nextPC .implied) .push .implied 0)

/-- PHP (R181): `Push(P | 0x30)`. -/
def execPhp (s : State) : Host.Outcome State Fault Refusal :=
  .next ((s.push (pushedStatus s.p)).retire (s.nextPC .implied) .push .implied 0)

/-- PLA (R182): `A <- Pull(); setNZ(A)`. -/
def execPla (s : State) : Host.Outcome State Fault Refusal :=
  .next (((s.pull.2.setA s.pull.1).withNZ s.pull.1).retire (s.nextPC .implied) .pull .implied 0)

/-- PLP (R183): `v <- Pull(); P <- (v & 0xCF) | (P & 0x30)`. -/
def execPlp (s : State) : Host.Outcome State Fault Refusal :=
  .next ((s.pull.2.setP (pulledStatus s.p s.pull.1)).retire (s.nextPC .implied) .pull .implied 0)

/-- CLC (R184). -/
def execClc (s : State) : Host.Outcome State Fault Refusal :=
  .next (impliedInstr (fun t => t.withFlag .carry false) s)

/-- CLD (R185). -/
def execCld (s : State) : Host.Outcome State Fault Refusal :=
  .next (impliedInstr (fun t => t.withFlag .decimal false) s)

/-- CLI (R186). -/
def execCli (s : State) : Host.Outcome State Fault Refusal :=
  .next (impliedInstr (fun t => t.withFlag .interruptDisable false) s)

/-- CLV (R187). -/
def execClv (s : State) : Host.Outcome State Fault Refusal :=
  .next (impliedInstr (fun t => t.withFlag .overflow false) s)

/-- SEC (R188). -/
def execSec (s : State) : Host.Outcome State Fault Refusal :=
  .next (impliedInstr (fun t => t.withFlag .carry true) s)

/-- SED (R189). -/
def execSed (s : State) : Host.Outcome State Fault Refusal :=
  .next (impliedInstr (fun t => t.withFlag .decimal true) s)

/-- SEI (R190). -/
def execSei (s : State) : Host.Outcome State Fault Refusal :=
  .next (impliedInstr (fun t => t.withFlag .interruptDisable true) s)

/-- NOP (R191): only PC changes. -/
def execNop (s : State) : Host.Outcome State Fault Refusal :=
  .next (impliedInstr (fun t => t) s)

/-- BRK (R192, R215): trap entry with the return address PC + 2; the byte at PC + 1 is never read. -/
def execBrk (s : State) : Host.Outcome State Fault Refusal :=
  .next ((s.enterTrap (s.pc + 2)).2.retire (s.enterTrap (s.pc + 2)).1 .brk .implied 0)

/-- RTI (R193, R216): trap return; nothing is added to the pulled PC. -/
def execRti (s : State) : Host.Outcome State Fault Refusal :=
  .next (s.leaveTrap.2.retire s.leaveTrap.1 .rti .implied 0)

/-- An illegal opcode: the placeholder no-op under `ILLEGAL_OPCODE_POLICY = NOP` (R194), refused under `REFUSE` (R195). -/
def execIll (opcode : Byte) (s : State) : Host.Outcome State Fault Refusal :=
  match s.cfg.illegalPolicy with
  | .nop    => .next (s.retire (s.nextPC .implied) .illegal .implied 0)
  | .refuse => .refused (.illegalOpcode opcode)

end Sys2Proof.Machine
end

