-- ==== Sys2Proof/Machine/Fetch.lean ====
section
/-! DEFINITION. Fetching an instruction (40_step_and_addressing.md R70 to R76): the opcode is read at PC, and as many
operand bytes after it as its mode has (R56), each by one Memory Port read in rising address order mod 65536 (R75). -/
namespace Sys2Proof.Machine

/-- The instruction at PC and the state after its bytes have been read. PC itself still holds the opcode's address
(R24). -/
def State.fetch (s : State) : Instr × State :=
  let op := s.beginStep.portRead s.pc
  if opcodeLength op.1 = 1 then (decodeOpcode op.1 0 0, op.2)
  else
    let b1 := op.2.portRead (s.pc + 1)
    if opcodeLength op.1 = 2 then (decodeOpcode op.1 b1.1 0, b1.2)
    else
      let b2 := b1.2.portRead (s.pc + 2)
      (decodeOpcode op.1 b1.1 b2.1, b2.2)

/-- The bytes stored in rising address order, mod 65536, from an address on. -/
def placeBytes (m : List Host.Cell) (address : Word) : List Byte → List Host.Cell
  | []      => m
  | b :: bs => placeBytes (memWrite m address.toNat b) (address + 1) bs

/-- The range reaches none of the three addresses an instruction at `pc` may be fetched from. -/
def missesFetch (pc : Word) (r : Nat × Nat) : Bool :=
  [pc, pc + 1, pc + 2].all fun a => decide (a.toNat < r.1) || decide (r.2 < a.toNat)

/-- The state with an instruction stored where the next step fetches it: its three bytes from PC on, and no range of
`openRegions` that reaches them (the fetch needs plain RAM there). -/
def State.placeInstruction (s : State) (bytes : List Byte) : State :=
  { s with
    mem := placeBytes s.mem s.pc bytes
    cfg := { s.cfg with openRegions := s.cfg.openRegions.filter (missesFetch s.pc) } }

end Sys2Proof.Machine
end

