-- ==== Sys2Proof/Machine/Step.lean ====
section
/-! DEFINITION. The step (40_step_and_addressing.md R70): fetch, then the instruction's meaning; and where the host places
an instruction for the next step. -/
namespace Sys2Proof.Machine

/-- One `step` transaction: it executes exactly one instruction (R70). -/
def step (s : State) : Host.Outcome State Fault Refusal := exec s.fetch.1 s.fetch.2

/-- The state with the instruction whose first `nbits` bits are `w` (every other bit 0) stored at PC. -/
def State.withFetchWord (s : State) (nbits w : Nat) : State := s.placeInstruction (tableBytes nbits w)

end Sys2Proof.Machine
end

