-- ==== Sys2Proof/Machine/Lut.lean ====
section
/-! DEFINITION. The dispatch LUT as the ROM 30_encoding.md describes (R58, R59): for each opcode byte its handler number
(R63), its mode tag (R62), its base cost (R60) and its penalty class (R61). The step itself uses the decoder and the cost
functions these entries are made of. -/
namespace Sys2Proof.Machine

/-- The handler number of an instruction: the mnemonics in alphabetical order, `ILL` last (R63). -/
def instrId : Instr → Nat
  | .adc _ => 0
  | .and _ => 1
  | .asl _ => 2
  | .bcc _ => 3
  | .bcs _ => 4
  | .beq _ => 5
  | .bit _ => 6
  | .bmi _ => 7
  | .bne _ => 8
  | .bpl _ => 9
  | .brk   => 10
  | .bvc _ => 11
  | .bvs _ => 12
  | .clc   => 13
  | .cld   => 14
  | .cli   => 15
  | .clv   => 16
  | .cmp _ => 17
  | .cpx _ => 18
  | .cpy _ => 19
  | .dec _ => 20
  | .dex   => 21
  | .dey   => 22
  | .eor _ => 23
  | .inc _ => 24
  | .inx   => 25
  | .iny   => 26
  | .jmp _ => 27
  | .jsr _ => 28
  | .lda _ => 29
  | .ldx _ => 30
  | .ldy _ => 31
  | .lsr _ => 32
  | .nop   => 33
  | .ora _ => 34
  | .pha   => 35
  | .php   => 36
  | .pla   => 37
  | .plp   => 38
  | .rol _ => 39
  | .ror _ => 40
  | .rti   => 41
  | .rts   => 42
  | .sbc _ => 43
  | .sec   => 44
  | .sed   => 45
  | .sei   => 46
  | .sta _ => 47
  | .stx _ => 48
  | .sty _ => 49
  | .tax   => 50
  | .tay   => 51
  | .tsx   => 52
  | .txa   => 53
  | .txs   => 54
  | .tya   => 55
  | .ill _ => 56

/-- The mode tag (R62). -/
def modeTag : Mode → Nat
  | .implied             => 0
  | .accumulator         => 1
  | .immediate           => 2
  | .relative            => 3
  | .zeroPage            => 4
  | .zeroPageX           => 5
  | .zeroPageY           => 6
  | .absolute            => 7
  | .absoluteX           => 8
  | .absoluteY           => 9
  | .indirect            => 10
  | .indirectPreIndexed  => 11
  | .indirectPostIndexed => 12

/-- The number of a penalty class (R61). -/
def penaltyTag : Penalty → Nat
  | .none      => 0
  | .pageCross => 1
  | .branch    => 2

/-- The cost class of an instruction (R60). -/
def costClass : Instr → CostClass
  | .adc _ | .and _ | .bit _ | .cmp _ | .cpx _ | .cpy _ | .eor _ | .lda _ | .ldx _ | .ldy _ | .ora _ | .sbc _ => .read
  | .sta _ | .stx _ | .sty _ => .write
  | .asl _ | .lsr _ | .rol _ | .ror _ | .inc _ | .dec _ => .readModifyWrite
  | .bcc _ | .bcs _ | .beq _ | .bmi _ | .bne _ | .bpl _ | .bvc _ | .bvs _ => .branch
  | .jmp _ => .jmp
  | .jsr _ => .jsr
  | .rts   => .rts
  | .rti   => .rti
  | .brk   => .brk
  | .pha | .php => .push
  | .pla | .plp => .pull
  | .clc | .cld | .cli | .clv | .sec | .sed | .sei | .dex | .dey | .inx | .iny | .nop
  | .tax | .tay | .tsx | .txa | .txs | .tya => .otherImplied
  | .ill _ => .illegal

/-- An entry of the LUT (R58). -/
structure LutEntry where
  instr : Nat
  mode  : Mode
  base  : Nat
  pen   : Penalty
  deriving DecidableEq, Repr

/-- The entry of an opcode byte (R58). -/
def lutEntry (op : Byte) : LutEntry :=
  let i := decodeOpcode op 0 0
  { instr := instrId i, mode := i.mode, base := baseCost (costClass i) i.mode
    pen := penaltyClass (costClass i) i.mode }

/-- The ROM word of an opcode byte: `instr | (mode << 6) | (base << 10) | (pen << 13)` (R59). The fields do not overlap, so
the sum is the bitwise or. -/
def lutWord (op : Byte) : Nat :=
  let e := lutEntry op
  e.instr + modeTag e.mode * 2 ^ 6 + e.base * 2 ^ 10 + penaltyTag e.pen * 2 ^ 13

end Sys2Proof.Machine
end

