-- ==== Sys2Proof/Machine/Transactions.lean ====
section
/-! DEFINITION. What the host can do (00_scope.md R7, R8; 60_exceptions.md R225): the `reset` transaction
(70_reset_and_hazards.md R232), `step`, the use of memory by another agent between two steps, and the observation of the
registers. -/
namespace Sys2Proof.Machine

/-- The `reset` transaction (R232): the vector is read, low byte first, and the registers take their defaults. No byte of
memory is written. -/
def State.resetTransaction (s : State) : State :=
  let vector := { s with bus := [] }.portReadWord 0xFFFC 0xFFFD
  { vector.2 with
    a := 0x00, x := 0x00, y := 0x00, sp := 0xFD, p := s.cfg.pReset.value, pc := vector.1, cycles := 0 }

/-- What may happen between two states the host can see: a transaction of the block (R7), or a write to memory by the host
or another agent, which may use the port between steps only (R51, R225). -/
inductive Transaction where
  | reset
  | step
  | portWrite (address : Word) (value : Byte)
  deriving DecidableEq, Repr

/-- The effect of a transaction. A write by another agent is no access of the block. -/
def transact (t : Transaction) (s : State) : Host.Outcome State Fault Refusal :=
  match t with
  | .reset         => .next s.resetTransaction
  | .step          => step s
  | .portWrite a v => .next { s with mem := memWrite s.mem a.toNat v }

/-- What an observer sees between transactions (R8, R223). -/
structure Observation where
  a      : Byte
  x      : Byte
  y      : Byte
  sp     : Byte
  pc     : Word
  p      : Byte
  cycles : Nat
  deriving DecidableEq, Repr

/-- The observation of a state (R8): it changes nothing. -/
def State.observe (s : State) : Observation :=
  { a := s.a, x := s.x, y := s.y, sp := s.sp, pc := s.pc, p := s.p, cycles := s.cycles }

end Sys2Proof.Machine
end

