-- ==== Sys2Proof/Safety.lean ====
section
/-! DEFINITION. What counts as a safe run, in the terms the statements use: that a step completes (00_scope.md R9), the
invariant of the block between transactions, and the states a host can bring it to. -/
namespace Sys2Proof.Machine

/-- The step answers a next state (R9: "Every step completes"). -/
def Completes (s : State) : Prop := ∃ t, step s = .next t

/-- What holds of the block between transactions: memory is in its canonical form; the counter has the 3 bits R11 asks
for and holds a cost of at most 7 (R96); the last transaction made at most 6 accesses (R96); and bits 4 and 5 of P have
their reset values (R26). -/
abbrev Inv (s : State) : Prop :=
  memWf s.mem = true ∧ 3 ≤ s.cfg.counterWidth ∧ s.cycles ≤ 7 ∧ s.bus.length ≤ 6 ∧
  s.p &&& 0x30 = s.cfg.pReset.value &&& 0x30

/-- The states a host can reach (R225): the power-on state of any parameters R11 allows, and every state a transaction
leads to from one of them. -/
inductive Reachable : State → Prop where
  | powerOn (cfg : Config) (width : 3 ≤ cfg.counterWidth) : Reachable (State.powerOn cfg)
  | transact (t : Transaction) {s s' : State} (before : Reachable s) (h : transact t s = .next s') : Reachable s'

end Sys2Proof.Machine
end

