-- ==== Sys2Proof/Certificates/Slice0/Obligations.lean ====
section
/-! DEFINITION. The statements for the provers, each from a rule of spec/ (the rule stands in its docstring), and before
them the words they are said in. -/
namespace Sys2Proof.Claims

open Sys2Proof.Machine

/-! The words of the statements. -/

/-- The outcome with its next state changed by `f`. -/
def mapNext (f : State → State) : Host.Outcome State Fault Refusal → Host.Outcome State Fault Refusal
  | .next t    => .next (f t)
  | .fault r   => .fault r
  | .refused r => .refused r

/-- The state with another `CYCLE_MODEL` and another value in the cycle counter. -/
def retimed (m : CycleModel) (n : Nat) (s : State) : State :=
  { s with cycles := n, cfg := { s.cfg with cycleModel := m } }

/-- Z and N of an 8-bit result `n` (R27). -/
def FlagsNZ (n : Nat) (p : Byte) : Prop :=
  getFlag p .zero = decide (n = 0) ∧ getFlag p .negative = decide (128 ≤ n)

/-- Every bit of P but those listed is unchanged (R28). -/
def BitsKept (written : List Nat) (p p' : Byte) : Prop :=
  ∀ k, k < 8 → k ∉ written → p'.getLsbD k = p.getLsbD k

/-- Every byte of memory reads as before. -/
def MemoryKept (s t : State) : Prop := ∀ a : Word, memRead t.mem a.toNat = memRead s.mem a.toNat

/-- Every byte of memory outside the listed addresses reads as before. -/
def MemoryKeptBut (stored : List Word) (s t : State) : Prop :=
  ∀ a : Word, a ∉ stored → memRead t.mem a.toNat = memRead s.mem a.toNat

/-- In a canonical memory, the address now reads as `v`. -/
def Stored (a : Word) (v : Byte) (s t : State) : Prop := memWf s.mem = true → memRead t.mem a.toNat = v

/-- The whole port is plain RAM (D26). -/
def PlainRam (s : State) : Prop := ∀ a : Word, openAt s.cfg a = false

/-- The stack byte a value of SP points at: `0x0100 + SP` (R23, R45). -/
def stackSlot (sp : Nat) : Word := BitVec.ofNat 16 (256 + sp % 256)

/-- The operand byte of an instruction of the read class, as the port answers it. -/
def value (o : Operand) (s : State) : Byte := (loadOperand o s).value

/-- The page-cross penalty of the read class (R61, R93). -/
def pageCost (o : Operand) (s : State) : Nat :=
  match o with
  | .absX a => if (a.toNat + s.x.toNat) % 65536 / 256 = a.toNat / 256 then 0 else 1
  | .absY a => if (a.toNat + s.y.toNat) % 65536 / 256 = a.toNat / 256 then 0 else 1
  | .indY z =>
    if ((s.zeroPageWord z).1.toNat + s.y.toNat) % 65536 / 256 = (s.zeroPageWord z).1.toNat / 256 then 0 else 1
  | _ => 0

/-- The address after a branch, and its target (R160), as numbers. -/
def branchNext (s : State) : Nat := (s.pc.toNat + 2) % 65536

/-- See `branchNext`. -/
def branchTarget (d : Byte) (s : State) : Nat := (((s.pc.toNat : Int) + 2 + d.toInt) % 65536).toNat

/-- The branch penalty (R94). -/
def branchCost (taken : Bool) (d : Byte) (s : State) : Nat :=
  if taken = true then (if branchTarget d s / 256 = branchNext s / 256 then 1 else 2) else 0

/-- What the counter holds after a step of this base cost and penalty (R36, R92, R95). -/
def Costs (s t : State) (base penalty : Nat) : Prop :=
  t.cycles = (match s.cfg.cycleModel with
    | .table       => base + penalty
    | .accessCount => t.bus.length + penalty) % 2 ^ s.cfg.counterWidth

/-- PC has advanced by so many bytes (R74, R75). -/
def Advanced (length : Nat) (s t : State) : Prop := t.pc.toNat = (s.pc.toNat + length) % 65536

/-- What every instruction of the read class does besides its own effect on A, X, Y and P: PC, the accesses (those of
loading the operand, which O26 gives), the cost, and what stays. -/
def ReadStep (o : Operand) (s t : State) : Prop :=
  Advanced o.mode.length s t ∧ t.sp = s.sp ∧ t.cfg = s.cfg ∧ MemoryKept s t ∧ t.bus = (loadOperand o s).state.bus ∧
  Costs s t (readCost o.mode) (pageCost o s)

/-- What every store does: the byte `v` is written at the effective address, no flag and no register but PC changes. -/
def StoreStep (o : Operand) (v : Byte) (s t : State) : Prop :=
  Advanced o.mode.length s t ∧ t.a = s.a ∧ t.x = s.x ∧ t.y = s.y ∧ t.sp = s.sp ∧ t.p = s.p ∧ t.cfg = s.cfg ∧
  Stored (resolve o s).ea v s t ∧ MemoryKeptBut [(resolve o s).ea] s t ∧
  t.bus = (resolve o s).state.bus ++ [.write (resolve o s).ea v] ∧ Costs s t (writeCost o.mode) 0

/-- What every Implied instruction without data access does besides its own effect on A, X, Y, SP and P. -/
def ImpliedStep (s t : State) : Prop :=
  Advanced 1 s t ∧ t.cfg = s.cfg ∧ MemoryKept s t ∧ t.bus = s.bus ∧ Costs s t 2 0

/-- The byte a read-modify-write instruction reads (R154). -/
def oldByte (o : Operand) (s : State) : Byte := (resolve o s).state.answer (resolve o s).ea

/-- What every read-modify-write instruction on memory does: one read, then one write of the new value (R154). -/
def ModifyStep (o : Operand) (r : Byte) (s t : State) : Prop :=
  Advanced o.mode.length s t ∧ t.a = s.a ∧ t.x = s.x ∧ t.y = s.y ∧ t.sp = s.sp ∧ t.cfg = s.cfg ∧
  Stored (resolve o s).ea r s t ∧ MemoryKeptBut [(resolve o s).ea] s t ∧
  t.bus = (resolve o s).state.bus ++ [.read (resolve o s).ea (oldByte o s), .write (resolve o s).ea r] ∧
  Costs s t (readModifyWriteCost o.mode) 0

/-- The byte a shift or rotate works on. -/
def shiftSource (o : ShiftOperand) (s : State) : Byte :=
  match o with
  | .acc   => s.a
  | .mem o => oldByte o s

/-- What every shift or rotate does with its result `r` and the bit shifted out `c`: C, N and Z, and where `r` goes. -/
def ShiftStep (o : ShiftOperand) (r : Byte) (c : Bool) (s t : State) : Prop :=
  getFlag t.p .carry = c ∧ FlagsNZ r.toNat t.p ∧ BitsKept [0, 1, 7] s.p t.p ∧
  match o with
  | .acc =>
    t.a = r ∧ t.x = s.x ∧ t.y = s.y ∧ t.sp = s.sp ∧ t.cfg = s.cfg ∧ MemoryKept s t ∧ t.bus = s.bus ∧
    Advanced 1 s t ∧ Costs s t 2 0
  | .mem o => ModifyStep o r s t

/-- What every conditional branch does (R160): PC, the cost, and nothing else. The displacement is
already read at the fetch (log entry 5). -/
def BranchStep (taken : Bool) (d : Byte) (s t : State) : Prop :=
  t.pc.toNat = (if taken = true then branchTarget d s else branchNext s) ∧
  t.a = s.a ∧ t.x = s.x ∧ t.y = s.y ∧ t.sp = s.sp ∧ t.p = s.p ∧ t.cfg = s.cfg ∧ MemoryKept s t ∧ t.bus = s.bus ∧
  Costs s t 2 (branchCost taken d s)

/-- A, X, Y and P are unchanged. -/
def RegistersKept (s t : State) : Prop := t.a = s.a ∧ t.x = s.x ∧ t.y = s.y ∧ t.p = s.p ∧ t.cfg = s.cfg

/-- `u` is a state in which a subroutine or handler may end: memory, SP and the parameters are those of `t`, everything
else is anything. -/
def SameStack (t u : State) : Prop := u.mem = t.mem ∧ u.sp = t.sp ∧ u.cfg = t.cfg

/-- The meaning of an instruction several times over. -/
def repeatExec (i : Instr) : Nat → State → Host.Outcome State Fault Refusal
  | 0, s => .next s
  | n + 1, s =>
    match exec i s with
    | .next t    => repeatExec i n t
    | .fault r   => .fault r
    | .refused r => .refused r

/-- The writers of C (R29). -/
def writesCarry : Instr → Bool
  | .adc _ | .sbc _ | .cmp _ | .cpx _ | .cpy _ | .asl _ | .lsr _ | .rol _ | .ror _ | .clc | .sec | .plp | .rti => true
  | .and _ | .bcc _ | .bcs _ | .beq _ | .bit _ | .bmi _ | .bne _ | .bpl _ | .brk | .bvc _ | .bvs _ | .cld | .cli
  | .clv | .dec _ | .dex | .dey | .eor _ | .inc _ | .inx | .iny | .jmp _ | .jsr _ | .lda _ | .ldx _ | .ldy _
  | .nop | .ora _ | .pha | .php | .pla | .rts | .sed | .sei | .sta _ | .stx _ | .sty _ | .tax | .tay | .tsx
  | .txa | .txs | .tya | .ill _ => false

/-- The writers of Z, and of N (R30, R34). -/
def writesZeroNegative : Instr → Bool
  | .lda _ | .ldx _ | .ldy _ | .tax | .tay | .txa | .tya | .tsx | .pla | .adc _ | .sbc _ | .and _ | .ora _
  | .eor _ | .cmp _ | .cpx _ | .cpy _ | .inc _ | .dec _ | .inx | .iny | .dex | .dey | .asl _ | .lsr _ | .rol _
  | .ror _ | .bit _ | .plp | .rti => true
  | .bcc _ | .bcs _ | .beq _ | .bmi _ | .bne _ | .bpl _ | .brk | .bvc _ | .bvs _ | .clc | .cld | .cli | .clv
  | .jmp _ | .jsr _ | .nop | .pha | .php | .rts | .sec | .sed | .sei | .sta _ | .stx _ | .sty _ | .txs | .ill _ => false

/-- The writers of I (R31). -/
def writesInterruptDisable : Instr → Bool
  | .sei | .cli | .brk | .plp | .rti => true
  | .adc _ | .and _ | .asl _ | .bcc _ | .bcs _ | .beq _ | .bit _ | .bmi _ | .bne _ | .bpl _ | .bvc _ | .bvs _
  | .clc | .cld | .clv | .cmp _ | .cpx _ | .cpy _ | .dec _ | .dex | .dey | .eor _ | .inc _ | .inx | .iny
  | .jmp _ | .jsr _ | .lda _ | .ldx _ | .ldy _ | .lsr _ | .nop | .ora _ | .pha | .php | .pla | .rol _ | .ror _
  | .rts | .sbc _ | .sec | .sed | .sta _ | .stx _ | .sty _ | .tax | .tay | .tsx | .txa | .txs | .tya | .ill _ => false

/-- The writers of D (R32). -/
def writesDecimal : Instr → Bool
  | .sed | .cld | .plp | .rti => true
  | .adc _ | .and _ | .asl _ | .bcc _ | .bcs _ | .beq _ | .bit _ | .bmi _ | .bne _ | .bpl _ | .brk | .bvc _
  | .bvs _ | .clc | .cli | .clv | .cmp _ | .cpx _ | .cpy _ | .dec _ | .dex | .dey | .eor _ | .inc _ | .inx
  | .iny | .jmp _ | .jsr _ | .lda _ | .ldx _ | .ldy _ | .lsr _ | .nop | .ora _ | .pha | .php | .pla | .rol _
  | .ror _ | .rts | .sbc _ | .sec | .sei | .sta _ | .stx _ | .sty _ | .tax | .tay | .tsx | .txa | .txs | .tya
  | .ill _ => false

/-- The writers of V (R33). -/
def writesOverflow : Instr → Bool
  | .adc _ | .sbc _ | .bit _ | .clv | .plp | .rti => true
  | .and _ | .asl _ | .bcc _ | .bcs _ | .beq _ | .bmi _ | .bne _ | .bpl _ | .brk | .bvc _ | .bvs _ | .clc | .cld
  | .cli | .cmp _ | .cpx _ | .cpy _ | .dec _ | .dex | .dey | .eor _ | .inc _ | .inx | .iny | .jmp _ | .jsr _
  | .lda _ | .ldx _ | .ldy _ | .lsr _ | .nop | .ora _ | .pha | .php | .pla | .rol _ | .ror _ | .rts | .sec
  | .sed | .sei | .sta _ | .stx _ | .sty _ | .tax | .tay | .tsx | .txa | .txs | .tya | .ill _ => false

/-- The accumulator form of a shift or rotate (R79). -/
def onAccumulator : ShiftOperand → Bool
  | .acc   => true
  | .mem _ => false

/-- The writers of A (R21, and the accumulator forms of R79). -/
def writesA : Instr → Bool
  | .adc _ | .sbc _ | .and _ | .ora _ | .eor _ | .lda _ | .txa | .tya | .pla => true
  | .asl o | .lsr o | .rol o | .ror o => onAccumulator o
  | .bcc _ | .bcs _ | .beq _ | .bit _ | .bmi _ | .bne _ | .bpl _ | .brk | .bvc _ | .bvs _ | .clc | .cld | .cli
  | .clv | .cmp _ | .cpx _ | .cpy _ | .dec _ | .dex | .dey | .inc _ | .inx | .iny | .jmp _ | .jsr _ | .ldx _
  | .ldy _ | .nop | .pha | .php | .plp | .rti | .rts | .sec | .sed | .sei | .sta _ | .stx _ | .sty _ | .tax
  | .tay | .tsx | .txs | .ill _ => false

/-- The writers of X (R22). -/
def writesX : Instr → Bool
  | .ldx _ | .tax | .tsx | .inx | .dex => true
  | .adc _ | .and _ | .asl _ | .bcc _ | .bcs _ | .beq _ | .bit _ | .bmi _ | .bne _ | .bpl _ | .brk | .bvc _
  | .bvs _ | .clc | .cld | .cli | .clv | .cmp _ | .cpx _ | .cpy _ | .dec _ | .dey | .eor _ | .inc _ | .iny
  | .jmp _ | .jsr _ | .lda _ | .ldy _ | .lsr _ | .nop | .ora _ | .pha | .php | .pla | .plp | .rol _ | .ror _
  | .rti | .rts | .sbc _ | .sec | .sed | .sei | .sta _ | .stx _ | .sty _ | .tay | .txa | .txs | .tya | .ill _ => false

/-- The writers of Y (R22). -/
def writesY : Instr → Bool
  | .ldy _ | .tay | .iny | .dey => true
  | .adc _ | .and _ | .asl _ | .bcc _ | .bcs _ | .beq _ | .bit _ | .bmi _ | .bne _ | .bpl _ | .brk | .bvc _
  | .bvs _ | .clc | .cld | .cli | .clv | .cmp _ | .cpx _ | .cpy _ | .dec _ | .dex | .eor _ | .inc _ | .inx
  | .jmp _ | .jsr _ | .lda _ | .ldx _ | .lsr _ | .nop | .ora _ | .pha | .php | .pla | .plp | .rol _ | .ror _
  | .rti | .rts | .sbc _ | .sec | .sed | .sei | .sta _ | .stx _ | .sty _ | .tax | .tsx | .txa | .txs | .tya
  | .ill _ => false

/-- The writers of SP (R23). -/
def writesSP : Instr → Bool
  | .pha | .php | .pla | .plp | .jsr _ | .rts | .brk | .rti | .txs => true
  | .adc _ | .and _ | .asl _ | .bcc _ | .bcs _ | .beq _ | .bit _ | .bmi _ | .bne _ | .bpl _ | .bvc _ | .bvs _
  | .clc | .cld | .cli | .clv | .cmp _ | .cpx _ | .cpy _ | .dec _ | .dex | .dey | .eor _ | .inc _ | .inx | .iny
  | .jmp _ | .lda _ | .ldx _ | .ldy _ | .lsr _ | .nop | .ora _ | .rol _ | .ror _ | .sbc _ | .sec | .sed | .sei
  | .sta _ | .stx _ | .sty _ | .tax | .tay | .tsx | .txa | .tya | .ill _ => false

/-- The instructions that write PC themselves (R74). -/
def writesPC : Instr → Bool
  | .bcc _ | .bcs _ | .beq _ | .bmi _ | .bne _ | .bpl _ | .bvc _ | .bvs _ | .jmp _ | .jsr _ | .rts | .brk | .rti => true
  | .adc _ | .and _ | .asl _ | .bit _ | .clc | .cld | .cli | .clv | .cmp _ | .cpx _ | .cpy _ | .dec _ | .dex
  | .dey | .eor _ | .inc _ | .inx | .iny | .lda _ | .ldx _ | .ldy _ | .lsr _ | .nop | .ora _ | .pha | .php
  | .pla | .plp | .rol _ | .ror _ | .sbc _ | .sec | .sed | .sei | .sta _ | .stx _ | .sty _ | .tax | .tay | .tsx
  | .txa | .txs | .tya | .ill _ => false

/-- The instructions with a data access that writes (R97): stores, read-modify-write on memory, pushes. -/
def writesMemory : Instr → Bool
  | .sta _ | .stx _ | .sty _ | .inc _ | .dec _ | .pha | .php | .jsr _ | .brk => true
  | .asl o | .lsr o | .rol o | .ror o => !onAccumulator o
  | .adc _ | .and _ | .bcc _ | .bcs _ | .beq _ | .bit _ | .bmi _ | .bne _ | .bpl _ | .bvc _ | .bvs _ | .clc
  | .cld | .cli | .clv | .cmp _ | .cpx _ | .cpy _ | .dex | .dey | .eor _ | .inx | .iny | .jmp _ | .lda _
  | .ldx _ | .ldy _ | .nop | .ora _ | .pla | .plp | .rti | .rts | .sbc _ | .sec | .sed | .sei | .tax | .tay
  | .tsx | .txa | .txs | .tya | .ill _ => false

/-- The penalty of an instruction (R93, R94). -/
def penalty (i : Instr) (s : State) : Nat :=
  match i with
  | .adc o | .and o | .bit o | .cmp o | .cpx o | .cpy o | .eor o | .lda o | .ldx o | .ldy o | .ora o | .sbc o =>
    pageCost o s
  | .bcc d => branchCost (!getFlag s.p .carry) d s
  | .bcs d => branchCost (getFlag s.p .carry) d s
  | .beq d => branchCost (getFlag s.p .zero) d s
  | .bmi d => branchCost (getFlag s.p .negative) d s
  | .bne d => branchCost (!getFlag s.p .zero) d s
  | .bpl d => branchCost (!getFlag s.p .negative) d s
  | .bvc d => branchCost (!getFlag s.p .overflow) d s
  | .bvs d => branchCost (getFlag s.p .overflow) d s
  | .asl _ | .brk | .clc | .cld | .cli | .clv | .dec _ | .dex | .dey | .inc _ | .inx | .iny | .jmp _ | .jsr _
  | .lsr _ | .nop | .pha | .php | .pla | .plp | .rol _ | .ror _ | .rti | .rts | .sec | .sed | .sei | .sta _
  | .stx _ | .sty _ | .tax | .tay | .tsx | .txa | .txs | .tya | .ill _ => 0

/-- The reads of the bytes `bs` of an instruction at PC. -/
def fetchReads (pc : Word) : List Byte → List Access
  | []      => []
  | b :: bs => .read pc b :: fetchReads (pc + 1) bs

/-- The port answers the bytes `bs` to as many reads from `pc` on, the first of them its access number `n`. -/
def Answers (s : State) : Nat → Word → List Byte → Prop
  | _, _, []       => True
  | n, pc, b :: bs => { s with portSeq := n }.answer pc = b ∧ Answers s (n + 1) (pc + 1) bs

/-- The column "word" of 30_encoding.md R65, a line for each row of the matrix. -/
def romWords : List Nat :=
  [0x1C0A, 0x1AE2, 0x0838, 0x0838, 0x0838, 0x0D22, 0x1502, 0x0838, 0x0C24,
   0x08A2, 0x0842, 0x0838, 0x0838, 0x11E2, 0x19C2, 0x0838] ++
  [0x48C9, 0x3722, 0x0838, 0x0838, 0x0838, 0x1162, 0x1942, 0x0838, 0x080D,
   0x3262, 0x0838, 0x0838, 0x0838, 0x3222, 0x1E02, 0x0838] ++
  [0x19DC, 0x1AC1, 0x0838, 0x0838, 0x0D06, 0x0D01, 0x1527, 0x0838, 0x1026,
   0x0881, 0x0867, 0x0838, 0x11C6, 0x11C1, 0x19E7, 0x0838] ++
  [0x48C7, 0x3701, 0x0838, 0x0838, 0x0838, 0x1141, 0x1967, 0x0838, 0x082C,
   0x3241, 0x0838, 0x0838, 0x0838, 0x3201, 0x1E27, 0x0838] ++
  [0x1829, 0x1AD7, 0x0838, 0x0838, 0x0838, 0x0D17, 0x1520, 0x0838, 0x0C23,
   0x0897, 0x0860, 0x0838, 0x0DDB, 0x11D7, 0x19E0, 0x0838] ++
  [0x48CB, 0x3717, 0x0838, 0x0838, 0x0838, 0x1157, 0x1960, 0x0838, 0x080F,
   0x3257, 0x0838, 0x0838, 0x0838, 0x3217, 0x1E20, 0x0838] ++
  [0x182A, 0x1AC0, 0x0838, 0x0838, 0x0838, 0x0D00, 0x1528, 0x0838, 0x1025,
   0x0880, 0x0868, 0x0838, 0x169B, 0x11C0, 0x19E8, 0x0838] ++
  [0x48CC, 0x3700, 0x0838, 0x0838, 0x0838, 0x1140, 0x1968, 0x0838, 0x082E,
   0x3240, 0x0838, 0x0838, 0x0838, 0x3200, 0x1E28, 0x0838] ++
  [0x0838, 0x1AEF, 0x0838, 0x0838, 0x0D31, 0x0D2F, 0x0D30, 0x0838, 0x0816,
   0x0838, 0x0835, 0x0838, 0x11F1, 0x11EF, 0x11F0, 0x0838] ++
  [0x48C3, 0x1B2F, 0x0838, 0x0838, 0x1171, 0x116F, 0x11B0, 0x0838, 0x0837,
   0x166F, 0x0836, 0x0838, 0x0838, 0x162F, 0x0838, 0x0838] ++
  [0x089F, 0x1ADD, 0x089E, 0x0838, 0x0D1F, 0x0D1D, 0x0D1E, 0x0838, 0x0833,
   0x089D, 0x0832, 0x0838, 0x11DF, 0x11DD, 0x11DE, 0x0838] ++
  [0x48C4, 0x371D, 0x0838, 0x0838, 0x115F, 0x115D, 0x119E, 0x0838, 0x0810,
   0x325D, 0x0834, 0x0838, 0x321F, 0x321D, 0x325E, 0x0838] ++
  [0x0893, 0x1AD1, 0x0838, 0x0838, 0x0D13, 0x0D11, 0x1514, 0x0838, 0x081A,
   0x0891, 0x0815, 0x0838, 0x11D3, 0x11D1, 0x19D4, 0x0838] ++
  [0x48C8, 0x3711, 0x0838, 0x0838, 0x0838, 0x1151, 0x1954, 0x0838, 0x080E,
   0x3251, 0x0838, 0x0838, 0x0838, 0x3211, 0x1E14, 0x0838] ++
  [0x0892, 0x1AEB, 0x0838, 0x0838, 0x0D12, 0x0D2B, 0x1518, 0x0838, 0x0819,
   0x08AB, 0x0821, 0x0838, 0x11D2, 0x11EB, 0x19D8, 0x0838] ++
  [0x48C5, 0x372B, 0x0838, 0x0838, 0x0838, 0x116B, 0x1958, 0x0838, 0x082D,
   0x326B, 0x0838, 0x0838, 0x0838, 0x322B, 0x1E18, 0x0838]

/-- The column "acc" of 30_encoding.md R65, a line for each row of the matrix. -/
def accessCounts : List Nat :=
  [6, 5, 1, 1, 1, 3, 4, 1, 2, 2, 1, 1, 1, 4, 5, 1] ++
  [2, 5, 1, 1, 1, 3, 4, 1, 1, 4, 1, 1, 1, 4, 5, 1] ++
  [5, 5, 1, 1, 3, 3, 4, 1, 2, 2, 1, 1, 4, 4, 5, 1] ++
  [2, 5, 1, 1, 1, 3, 4, 1, 1, 4, 1, 1, 1, 4, 5, 1] ++
  [4, 5, 1, 1, 1, 3, 4, 1, 2, 2, 1, 1, 3, 4, 5, 1] ++
  [2, 5, 1, 1, 1, 3, 4, 1, 1, 4, 1, 1, 1, 4, 5, 1] ++
  [3, 5, 1, 1, 1, 3, 4, 1, 2, 2, 1, 1, 5, 4, 5, 1] ++
  [2, 5, 1, 1, 1, 3, 4, 1, 1, 4, 1, 1, 1, 4, 5, 1] ++
  [1, 5, 1, 1, 3, 3, 3, 1, 1, 1, 1, 1, 4, 4, 4, 1] ++
  [2, 5, 1, 1, 3, 3, 3, 1, 1, 4, 1, 1, 1, 4, 1, 1] ++
  [2, 5, 2, 1, 3, 3, 3, 1, 1, 2, 1, 1, 4, 4, 4, 1] ++
  [2, 5, 1, 1, 3, 3, 3, 1, 1, 4, 1, 1, 4, 4, 4, 1] ++
  [2, 5, 1, 1, 3, 3, 4, 1, 1, 2, 1, 1, 4, 4, 5, 1] ++
  [2, 5, 1, 1, 1, 3, 4, 1, 1, 4, 1, 1, 1, 4, 5, 1] ++
  [2, 5, 1, 1, 3, 3, 4, 1, 1, 2, 1, 1, 4, 4, 5, 1] ++
  [2, 5, 1, 1, 1, 3, 4, 1, 1, 4, 1, 1, 1, 4, 5, 1]

end Sys2Proof.Claims

open Sys2Proof Sys2Proof.Machine Sys2Proof.Claims

/-- O1. For every well-formed instruction, with every operand, the decoder reads from its encoding followed by any
bytes exactly that instruction and leaves exactly those bytes. (30_encoding.md R55, 30_encoding.md R57,
30_encoding.md R65) -/
def Obligations.DecodeOfEncode : Prop :=
  ∀ (i : Instr) (rest : List Byte), i.wellFormed = true → decode (encode i ++ rest) = .ok (i, rest)

/-- O2. Whatever the decoder reads from a list of bytes is a well-formed instruction whose encoding, followed by
what the decoder left, is that list. (30_encoding.md R55, 30_encoding.md R57, 30_encoding.md R65,
40_step_and_addressing.md R73) -/
def Obligations.EncodeOfDecode : Prop :=
  ∀ (bytes : List Byte) (i : Instr) (rest : List Byte), decode bytes = .ok (i, rest) →
    i.wellFormed = true ∧ encode i ++ rest = bytes

/-- O3. The ROM word of every opcode byte is instr | mode << 6 | base << 10 | pen << 13 of its entry, and is the
word in the table of R65. (R59) -/
def Obligations.RomWords : Prop :=
  ∀ op : Byte,
    lutWord op = ((lutEntry op).instr ||| (modeTag (lutEntry op).mode <<< 6) ||| ((lutEntry op).base <<< 10) |||
      (penaltyTag (lutEntry op).pen <<< 13)) ∧
    romWords[op.toNat]? = some (lutWord op)

/-- O4. There are 105 illegal opcode bytes; each decodes to the placeholder with its own byte and has the LUT entry
instr 56, mode Implied, base 2, pen 0; every other byte decodes to a handler numbered 0 to 55. (30_encoding.md R64,
30_encoding.md R65) -/
def Obligations.IllegalOpcodes : Prop :=
  illegalBytes.length = 105 ∧ ∀ op : Byte,
    (illegalBytes.contains op.toNat = true →
      decodeOpcode op 0 0 = .ill op ∧ lutEntry op = ⟨56, .implied, 2, .none⟩) ∧
    (illegalBytes.contains op.toNat = false → instrId (decodeOpcode op 0 0) < 56)

/-- O5. A word of each family, written out from the opcode map and the operand rules, decodes to the instruction it
stands for. (30_encoding.md R57, 30_encoding.md R65) -/
def Obligations.DecodeSampleWords : Prop :=
  decode [0xA9, 0x80] = .ok (.lda (.imm 0x80), []) ∧
    decode [0x9D, 0xFF, 0x02] = .ok (.sta (.absX 0x02FF), []) ∧
    decode [0xBA] = .ok (.tsx, []) ∧
    decode [0x71, 0x40] = .ok (.adc (.indY 0x40), []) ∧
    decode [0xE6, 0x10] = .ok (.inc (.zp 0x10), []) ∧
    decode [0x7E, 0xFF, 0x02] = .ok (.ror (.mem (.absX 0x02FF)), []) ∧
    decode [0x4A] = .ok (.lsr .acc, []) ∧
    decode [0xD0, 0xFE] = .ok (.bne 0xFE, []) ∧
    decode [0x6C, 0xFF, 0x02] = .ok (.jmp (.ind 0x02FF), []) ∧
    decode [0x20, 0x00, 0x07] = .ok (.jsr 0x0700, []) ∧
    decode [0x28] = .ok (.plp, []) ∧
    decode [0x00, 0xEA] = .ok (.brk, [0xEA]) ∧
    decode [0x9C] = .ok (.ill 0x9C, [])

/-- O6. Whatever the opcode byte and the two bytes after it, decoding succeeds; the instruction's length depends on
the opcode byte alone, is 1, 2 or 3 by its mode, and as many bytes are consumed. (R72) -/
def Obligations.EveryOpcodeDecodes : Prop :=
  ∀ (op b1 b2 : Byte) (rest : List Byte), ∃ i : Instr,
    decode (op :: b1 :: b2 :: rest) = .ok (i, (op :: b1 :: b2 :: rest).drop i.length) ∧
    i.length = opcodeLength op ∧
    i.length = (match i.mode with
      | .implied | .accumulator => 1
      | .absolute | .absoluteX | .absoluteY | .indirect => 3
      | _ => 2)

/-- O7. If the bytes the port answers from PC on (the addresses wrapping mod 65536) decode to an instruction, then
the step is the meaning of that instruction, in the state in which those bytes have been read in order as the step's
first accesses and nothing else has changed but the counter, which is 0. (40_step_and_addressing.md R70,
40_step_and_addressing.md R71, 40_step_and_addressing.md R75) -/
def Obligations.StepRunsDecoded : Prop :=
  ∀ (s : State) (bs : List Byte) (i : Instr), decode bs = .ok (i, []) → Answers s s.portSeq s.pc bs →
    step s = exec i { s with cycles := 0, bus := fetchReads s.pc bs, portSeq := s.portSeq + bs.length }

/-- O8. With ILLEGAL_OPCODE_POLICY = NOP every step from every state answers a next state; under no parameters does
a step fault. (00_scope.md R9, 45_stack_flags_system.md R194, 60_exceptions.md R210) -/
def Obligations.StepCompletes : Prop :=
  (∀ (s : State) (f : Fault), step s ≠ .fault f) ∧
    ∀ s : State, s.cfg.illegalPolicy = .nop → ∃ t, step s = .next t

/-- O9. With ILLEGAL_OPCODE_POLICY = REFUSE a step is refused, with the opcode byte, if the byte the port answers at
PC is an illegal opcode, and completes otherwise. (40_step_and_addressing.md R73, 45_stack_flags_system.md R195) -/
def Obligations.RefusePolicy : Prop :=
  ∀ s : State, s.cfg.illegalPolicy = .refuse →
    (illegalBytes.contains (s.answer s.pc).toNat = true → step s = .refused (.illegalOpcode (s.answer s.pc))) ∧
    (illegalBytes.contains (s.answer s.pc).toNat = false → ∃ t, step s = .next t)

/-- O10. The accesses of a completed step begin with reads of the instruction's bytes in rising order from PC, the
opcode first, as many as the opcode's length; every other access comes after them. (40_step_and_addressing.md R71,
40_step_and_addressing.md R76, 20_memory.md R53) -/
def Obligations.FetchComesFirst : Prop :=
  ∀ s t : State, step s = .next t → ∃ (bs : List Byte) (others : List Access),
    t.bus = fetchReads s.pc bs ++ others ∧ bs.head? = some (s.answer s.pc) ∧
    bs.length = opcodeLength (s.answer s.pc)

/-- O11. The number of accesses of a completed step is the entry of the column acc of R65 for the opcode byte the
port answers at PC: no dummy access is made. (20_memory.md R48, 30_encoding.md R65, 40_step_and_addressing.md R95,
40_step_and_addressing.md R97) -/
def Obligations.AccessCounts : Prop :=
  ∀ s t : State, step s = .next t → accessCounts[(s.answer s.pc).toNat]? = some t.bus.length

/-- O12. After a completed step the cycle counter holds at most 7 under CYCLE_MODEL = TABLE and at most 6 under
ACCESS_COUNT, whatever its width. (40_step_and_addressing.md R96) -/
def Obligations.CycleBound : Prop :=
  ∀ s t : State, step s = .next t →
    (s.cfg.cycleModel = .table → t.cycles ≤ 7) ∧ (s.cfg.cycleModel = .accessCount → t.cycles ≤ 6)

/-- O13. When an instruction completes, the counter holds its base cost plus its page-cross or branch penalty under
TABLE, and the accesses made plus the same penalty under ACCESS_COUNT, modulo 2 to the counter's width.
(30_encoding.md R60, 30_encoding.md R61, 40_step_and_addressing.md R92, 40_step_and_addressing.md R93,
40_step_and_addressing.md R94, 40_step_and_addressing.md R95) -/
def Obligations.CostOfEveryInstruction : Prop :=
  ∀ (i : Instr) (s t : State), exec i s = .next t → Costs s t (baseCost (costClass i) i.mode) (penalty i s)

/-- O14. If memory is canonical, the counter has at least 3 bits and holds at most 7, the last transaction made at
most 6 accesses, and bits 4 and 5 of P are those of P_RESET, then the same holds after a completed step.
(10_state.md R26, 20_memory.md R40, 40_step_and_addressing.md R96) -/
def Obligations.StepKeepsInv : Prop :=
  ∀ s t : State, Inv s → step s = .next t → Inv t

/-- O15. State.reset meets the invariant that every step keeps (its memory and parameters are the model's choice,
log entries 2 to 4). (10_state.md R26, 70_reset_and_hazards.md R231) -/
def Obligations.ResetInv : Prop :=
  Inv State.reset

/-- O16. From power-on with any parameters R11 allows, however resets, steps and writes to memory by other agents
follow one another, the invariant holds. (10_state.md R26, 60_exceptions.md R225, 70_reset_and_hazards.md R230,
70_reset_and_hazards.md R235) -/
def Obligations.ReachableInv : Prop :=
  ∀ s : State, Reachable s → Inv s

/-- O17. Neither a step, nor a reset, nor a write by another agent changes the block's parameters or the port it is
bound to. (00_scope.md R6, 00_scope.md R11, 10_state.md R37) -/
def Obligations.ParametersFixed : Prop :=
  ∀ (tr : Transaction) (s t : State), transact tr s = .next t → t.cfg = s.cfg

/-- O18. At power-on A, X and Y are 0, SP is 0xFD, PC is 0, P is P_RESET (0x24 or 0x34), the cycle counter is 0 and
no access has been made. (R39) -/
def Obligations.PowerOnState : Prop :=
  ∀ cfg : Config, ((State.powerOn cfg).a = 0x00 ∧ (State.powerOn cfg).x = 0x00 ∧ (State.powerOn cfg).y = 0x00 ∧
    (State.powerOn cfg).sp = 0xFD ∧ (State.powerOn cfg).pc = 0x0000 ∧ (State.powerOn cfg).cycles = 0 ∧
    (State.powerOn cfg).bus = []) ∧
    (cfg.pReset = .p24 → (State.powerOn cfg).p = 0x24) ∧ (cfg.pReset = .p34 → (State.powerOn cfg).p = 0x34)

/-- O19. Reset always completes; it makes exactly two accesses, reads of 0xFFFC and then 0xFFFD; PC is the little-
endian word of the two bytes answered, A, X and Y are 0, SP is 0xFD, P is P_RESET, the cycle counter is 0, and
memory and the parameters are unchanged. (R232, R233) -/
def Obligations.ResetTransaction : Prop :=
  ∀ s : State, ∃ (t : State) (lo hi : Byte), transact .reset s = .next t ∧
    t.bus = [.read 0xFFFC lo, .read 0xFFFD hi] ∧ t.pc.toNat = hi.toNat * 256 + lo.toNat ∧
    lo = s.answer 0xFFFC ∧ hi = { s with portSeq := s.portSeq + 1 }.answer 0xFFFD ∧
    t.a = 0x00 ∧ t.x = 0x00 ∧ t.y = 0x00 ∧ t.sp = 0xFD ∧ t.cycles = 0 ∧ t.cfg = s.cfg ∧ t.mem = s.mem ∧
    (s.cfg.pReset = .p24 → t.p = 0x24) ∧ (s.cfg.pReset = .p34 → t.p = 0x34)

/-- O20. Behind a plain RAM port, two resets of blocks with the same parameters and the same two vector bytes give
the same observable registers, whatever came before. (70_reset_and_hazards.md R235) -/
def Obligations.ResetRepeats : Prop :=
  ∀ s s' : State, PlainRam s → s'.cfg = s.cfg →
    memRead s'.mem 0xFFFC = memRead s.mem 0xFFFC → memRead s'.mem 0xFFFD = memRead s.mem 0xFFFD →
    s'.resetTransaction.observe = s.resetTransaction.observe

/-- O21. The reset transaction of a block just built with the standard parameters gives State.reset. That an
unlisted byte reads 0x00, that P_RESET is 0x24 and that the port is plain RAM are the model's choice (log entries 2,
3 and 4). (10_state.md R39, 70_reset_and_hazards.md R231, 70_reset_and_hazards.md R232) -/
def Obligations.ResetState : Prop :=
  transact .reset (State.powerOn .standard) = .next State.reset

/-- O22. ZeroPage, ZeroPageX and ZeroPageY give the operand byte, plus X or Y mod 256, as an address in page 0; they
never set crossed and make no pointer read. (40_step_and_addressing.md R82, 40_step_and_addressing.md R83,
40_step_and_addressing.md R84) -/
def Obligations.ZeroPageModes : Prop :=
  ∀ (z : Byte) (s : State),
    (resolve (.zp z) s).ea.toNat = z.toNat ∧
    (resolve (.zpX z) s).ea.toNat = (z.toNat + s.x.toNat) % 256 ∧
    (resolve (.zpY z) s).ea.toNat = (z.toNat + s.y.toNat) % 256 ∧
    ((resolve (.zp z) s).crossed = false ∧ (resolve (.zpX z) s).crossed = false ∧
      (resolve (.zpY z) s).crossed = false) ∧
    ((resolve (.zp z) s).state = s ∧ (resolve (.zpX z) s).state = s ∧ (resolve (.zpY z) s).state = s)

/-- O23. Immediate gives PC + 1 mod 65536, Absolute its operand, AbsoluteX and AbsoluteY the operand plus X or Y mod
65536; crossed is set exactly when the high byte of the sum differs from the operand's; none makes a pointer read.
(40_step_and_addressing.md R80, 40_step_and_addressing.md R85, 40_step_and_addressing.md R86,
40_step_and_addressing.md R87) -/
def Obligations.AbsoluteModes : Prop :=
  ∀ (v : Byte) (a : Word) (s : State),
    (resolve (.imm v) s).ea.toNat = (s.pc.toNat + 1) % 65536 ∧ (resolve (.abs a) s).ea = a ∧
    (resolve (.absX a) s).ea.toNat = (a.toNat + s.x.toNat) % 65536 ∧
    (resolve (.absY a) s).ea.toNat = (a.toNat + s.y.toNat) % 65536 ∧
    ((resolve (.imm v) s).crossed = false ∧ (resolve (.abs a) s).crossed = false) ∧
    ((resolve (.absX a) s).crossed = true ↔ (a.toNat + s.x.toNat) % 65536 / 256 ≠ a.toNat / 256) ∧
    ((resolve (.absY a) s).crossed = true ↔ (a.toNat + s.y.toNat) % 65536 / 256 ≠ a.toNat / 256) ∧
    ((resolve (.imm v) s).state = s ∧ (resolve (.abs a) s).state = s ∧ (resolve (.absX a) s).state = s ∧
      (resolve (.absY a) s).state = s)

/-- O24. With p = (z + X) mod 256 the mode reads the low byte at p and then the high byte at (p + 1) mod 256, both
in page 0; the effective address is the word of the two bytes answered; crossed stays 0. Behind a plain RAM port the
bytes are memory's. (40_step_and_addressing.md R89, 20_memory.md R44) -/
def Obligations.PreIndexedMode : Prop :=
  ∀ (z : Byte) (s : State), ∃ lo hi : Byte,
    (resolve (.indX z) s).state.bus = s.bus ++
      [.read (BitVec.ofNat 16 ((z.toNat + s.x.toNat) % 256)) lo,
        .read (BitVec.ofNat 16 ((z.toNat + s.x.toNat + 1) % 256)) hi] ∧
    (resolve (.indX z) s).ea.toNat = hi.toNat * 256 + lo.toNat ∧ (resolve (.indX z) s).crossed = false ∧
    (PlainRam s → lo = memRead s.mem ((z.toNat + s.x.toNat) % 256) ∧
      hi = memRead s.mem ((z.toNat + s.x.toNat + 1) % 256))

/-- O25. The mode reads the low byte at z and then the high byte at (z + 1) mod 256, both in page 0, and adds Y mod
65536 to the word of the two bytes answered; crossed is set exactly when that changes the high byte. Behind a plain
RAM port the bytes are memory's. (40_step_and_addressing.md R90, 20_memory.md R44) -/
def Obligations.PostIndexedMode : Prop :=
  ∀ (z : Byte) (s : State), ∃ lo hi : Byte,
    (resolve (.indY z) s).state.bus = s.bus ++
      [.read (BitVec.ofNat 16 z.toNat) lo, .read (BitVec.ofNat 16 ((z.toNat + 1) % 256)) hi] ∧
    (resolve (.indY z) s).ea.toNat = (hi.toNat * 256 + lo.toNat + s.y.toNat) % 65536 ∧
    ((resolve (.indY z) s).crossed = true ↔
      (hi.toNat * 256 + lo.toNat + s.y.toNat) % 65536 / 256 ≠ hi.toNat) ∧
    (PlainRam s → lo = memRead s.mem z.toNat ∧ hi = memRead s.mem ((z.toNat + 1) % 256))

/-- O26. An immediate operand is the instruction's own byte and no further access is made; any other operand is read
by one access at its effective address, where plain RAM answers memory's byte and anything else the free value of
that access. That an immediate operand is the byte already read at the fetch is the model's reading (log entry 5,
DEDUCED; R80 gives the handler one read of it), and that an open address answers Config.portByte of that access is
the model's choice (log entry 4, DESIGN CHOICE). (20_memory.md R41, 40_step_and_addressing.md R80,
40_step_and_addressing.md R97) -/
def Obligations.OperandValue : Prop :=
  ∀ (o : Operand) (s : State),
    (∀ v, o = .imm v → value o s = v ∧ (loadOperand o s).state = s) ∧
    ((∀ v, o ≠ .imm v) →
      (loadOperand o s).state.bus = (resolve o s).state.bus ++ [.read (resolve o s).ea (value o s)] ∧
      (openAt s.cfg (resolve o s).ea = false → value o s = memRead s.mem (resolve o s).ea.toNat) ∧
      (openAt s.cfg (resolve o s).ea = true →
        value o s = Config.portByte (resolve o s).state.portSeq (resolve o s).ea))

/-- O27. With every operand LDA, LDX or LDY completes: the register is the operand's byte, N and Z are those of that
byte, every other bit of P, every other register and all memory are unchanged, and PC, the accesses and the cost are
as the mode says. The encodings are those of the rules. (R100, R101, R102) -/
def Obligations.LoadsReadTheOperand : Prop :=
  ∀ (o : Operand) (s : State),
    ((Instr.lda o).encodings = [(.immediate, 0xA9), (.zeroPage, 0xA5), (.zeroPageX, 0xB5), (.absolute, 0xAD), (.absoluteX, 0xBD),
      (.absoluteY, 0xB9), (.indirectPreIndexed, 0xA1), (.indirectPostIndexed, 0xB1)] ∧
      (Instr.ldx o).encodings =
        [(.immediate, 0xA2), (.zeroPage, 0xA6), (.zeroPageY, 0xB6), (.absolute, 0xAE), (.absoluteY, 0xBE)] ∧
      (Instr.ldy o).encodings =
        [(.immediate, 0xA0), (.zeroPage, 0xA4), (.zeroPageX, 0xB4), (.absolute, 0xAC), (.absoluteX, 0xBC)]) ∧
    (∃ t, exec (.lda o) s = .next t ∧ t.a = value o s ∧ FlagsNZ (value o s).toNat t.p ∧ BitsKept [1, 7] s.p t.p ∧
      t.x = s.x ∧ t.y = s.y ∧ ReadStep o s t) ∧
    (∃ t, exec (.ldx o) s = .next t ∧ t.x = value o s ∧ FlagsNZ (value o s).toNat t.p ∧ BitsKept [1, 7] s.p t.p ∧
      t.a = s.a ∧ t.y = s.y ∧ ReadStep o s t) ∧
    (∃ t, exec (.ldy o) s = .next t ∧ t.y = value o s ∧ FlagsNZ (value o s).toNat t.p ∧ BitsKept [1, 7] s.p t.p ∧
      t.a = s.a ∧ t.x = s.x ∧ ReadStep o s t)

/-- O28. With every operand STA, STX or STY completes: the register is written at the effective address by one write
and without a read there, every other byte of memory, every register but PC and every flag are unchanged, and the
cost has no page-cross penalty. The encodings are those of the rules. (R103, R104, R105) -/
def Obligations.StoresWriteTheRegister : Prop :=
  ∀ (o : Operand) (s : State),
    ((Instr.sta o).encodings =
        [(.zeroPage, 0x85), (.zeroPageX, 0x95), (.absolute, 0x8D), (.absoluteX, 0x9D), (.absoluteY, 0x99),
          (.indirectPreIndexed, 0x81), (.indirectPostIndexed, 0x91)] ∧
      (Instr.stx o).encodings = [(.zeroPage, 0x86), (.zeroPageY, 0x96), (.absolute, 0x8E)] ∧
      (Instr.sty o).encodings = [(.zeroPage, 0x84), (.zeroPageX, 0x94), (.absolute, 0x8C)]) ∧
    (∃ t, exec (.sta o) s = .next t ∧ StoreStep o s.a s t) ∧
    (∃ t, exec (.stx o) s = .next t ∧ StoreStep o s.x s t) ∧
    (∃ t, exec (.sty o) s = .next t ∧ StoreStep o s.y s t)

/-- O29. Each transfer completes: the destination is the source's value, N and Z are those of that value, every
other bit of P, every other register and all memory are unchanged; one byte, cost 2. (R106, R107, R108, R109, R110)
-/
def Obligations.TransfersSetNZ : Prop :=
  ∀ s : State,
    (encode .tax = [0xAA] ∧ encode .tay = [0xA8] ∧ encode .txa = [0x8A] ∧ encode .tya = [0x98] ∧
      encode .tsx = [0xBA]) ∧
    (∃ t, exec .tax s = .next t ∧ t.x = s.a ∧ t.a = s.a ∧ t.y = s.y ∧ t.sp = s.sp ∧
      FlagsNZ s.a.toNat t.p ∧ BitsKept [1, 7] s.p t.p ∧ ImpliedStep s t) ∧
    (∃ t, exec .tay s = .next t ∧ t.y = s.a ∧ t.a = s.a ∧ t.x = s.x ∧ t.sp = s.sp ∧
      FlagsNZ s.a.toNat t.p ∧ BitsKept [1, 7] s.p t.p ∧ ImpliedStep s t) ∧
    (∃ t, exec .txa s = .next t ∧ t.a = s.x ∧ t.x = s.x ∧ t.y = s.y ∧ t.sp = s.sp ∧
      FlagsNZ s.x.toNat t.p ∧ BitsKept [1, 7] s.p t.p ∧ ImpliedStep s t) ∧
    (∃ t, exec .tya s = .next t ∧ t.a = s.y ∧ t.x = s.x ∧ t.y = s.y ∧ t.sp = s.sp ∧
      FlagsNZ s.y.toNat t.p ∧ BitsKept [1, 7] s.p t.p ∧ ImpliedStep s t) ∧
    (∃ t, exec .tsx s = .next t ∧ t.x = s.sp ∧ t.a = s.a ∧ t.y = s.y ∧ t.sp = s.sp ∧
      FlagsNZ s.sp.toNat t.p ∧ BitsKept [1, 7] s.p t.p ∧ ImpliedStep s t)

/-- O30. TXS completes: SP is X, and P, A, X, Y and all memory are unchanged; one byte, cost 2. (R111) -/
def Obligations.TxsWritesNoFlag : Prop :=
  ∀ s : State, encode .txs = [0x9A] ∧
    ∃ t, exec .txs s = .next t ∧ t.sp = s.x ∧ t.p = s.p ∧ t.a = s.a ∧ t.x = s.x ∧ t.y = s.y ∧ ImpliedStep s t

/-- O31. With every operand and whatever D holds ADC completes: A is the sum of A, the operand and C mod 256; C is
whether the sum reaches 256; V is whether both addends have the same sign and the result another; N and Z are those
of the result; every other bit of P, X, Y, SP and all memory are unchanged. The encodings are those of the rule.
(R121, R130) -/
def Obligations.AdcAddsWithCarry : Prop :=
  ∀ (o : Operand) (s : State),
    (Instr.adc o).encodings = [(.immediate, 0x69), (.zeroPage, 0x65), (.zeroPageX, 0x75), (.absolute, 0x6D), (.absoluteX, 0x7D),
      (.absoluteY, 0x79), (.indirectPreIndexed, 0x61), (.indirectPostIndexed, 0x71)] ∧
    ∃ t, exec (.adc o) s = .next t ∧
      t.a.toNat = (s.a.toNat + (value o s).toNat + (getFlag s.p .carry).toNat) % 256 ∧
      getFlag t.p .carry = decide (256 ≤ s.a.toNat + (value o s).toNat + (getFlag s.p .carry).toNat) ∧
      getFlag t.p .overflow = decide (s.a.msb = (value o s).msb ∧ t.a.msb ≠ s.a.msb) ∧
      FlagsNZ t.a.toNat t.p ∧ BitsKept [0, 1, 6, 7] s.p t.p ∧ t.x = s.x ∧ t.y = s.y ∧ ReadStep o s t

/-- O32. With every operand and whatever D holds SBC completes: A is A minus the operand minus the borrow 1 - C, mod
256; C is whether no borrow occurred; V is whether the operands have different signs and the result another sign
than A; N and Z are those of the result; every other bit of P, X, Y, SP and all memory are unchanged. The encodings
are those of the rule. (R131) -/
def Obligations.SbcSubtractsWithBorrow : Prop :=
  ∀ (o : Operand) (s : State),
    (Instr.sbc o).encodings = [(.immediate, 0xE9), (.zeroPage, 0xE5), (.zeroPageX, 0xF5), (.absolute, 0xED), (.absoluteX, 0xFD),
      (.absoluteY, 0xF9), (.indirectPreIndexed, 0xE1), (.indirectPostIndexed, 0xF1)] ∧
    ∃ t, exec (.sbc o) s = .next t ∧
      (t.a.toNat : Int) =
        ((s.a.toNat : Int) - (value o s).toNat - (1 - ((getFlag s.p .carry).toNat : Int))) % 256 ∧
      getFlag t.p .carry =
        decide (0 ≤ (s.a.toNat : Int) - (value o s).toNat - (1 - ((getFlag s.p .carry).toNat : Int))) ∧
      getFlag t.p .overflow = decide (s.a.msb ≠ (value o s).msb ∧ t.a.msb ≠ s.a.msb) ∧
      FlagsNZ t.a.toNat t.p ∧ BitsKept [0, 1, 6, 7] s.p t.p ∧ t.x = s.x ∧ t.y = s.y ∧ ReadStep o s t

/-- O33. For all operands and carries, ADD's V is set exactly when the signed sum lies outside -128..127, SUB's
exactly when the signed difference does, and SUB gives the same result, carry and overflow as ADD of the
complemented operand. (42_arithmetic_logic.md R122, 42_arithmetic_logic.md R128) -/
def Obligations.OverflowIsSigned : Prop :=
  ∀ (a b : Byte) (c : Bool),
    ((addWithCarry a b c).overflow = true ↔
      ¬ (-128 ≤ a.toInt + b.toInt + (c.toNat : Int) ∧ a.toInt + b.toInt + (c.toNat : Int) ≤ 127)) ∧
    ((subWithBorrow a b c).overflow = true ↔
      ¬ (-128 ≤ a.toInt - b.toInt - (1 - (c.toNat : Int)) ∧ a.toInt - b.toInt - (1 - (c.toNat : Int)) ≤ 127)) ∧
    subWithBorrow a b c = addWithCarry a (~~~b) c

/-- O34. After ADC of an operand with carry c, an SBC of the same byte in any state with that A gives the old A back
if C is 1 - c, and gives A + 2c - 1 mod 256, which is another value, if C is c. (42_arithmetic_logic.md R145,
90_conflicts.md C3) -/
def Obligations.SbcUndoesAdc : Prop :=
  ∀ (o o' : Operand) (s t u : State), exec (.adc o) s = .next t → u.a = t.a → value o' u = value o s →
    ∃ r, exec (.sbc o') u = .next r ∧
      (getFlag u.p .carry = !getFlag s.p .carry → r.a = s.a) ∧
      (getFlag u.p .carry = getFlag s.p .carry →
        (r.a.toNat : Int) = ((s.a.toNat : Int) + 2 * ((getFlag s.p .carry).toNat : Int) - 1) % 256 ∧ r.a ≠ s.a)

/-- O35. With every operand AND, ORA or EOR completes: A is the bitwise result, N and Z are those of it, every other
bit of P, every other register and all memory are unchanged. The encodings are those of the rules. (R132, R133,
R134) -/
def Obligations.LogicOnTheAccumulator : Prop :=
  ∀ (o : Operand) (s : State),
    ((Instr.and o).encodings = [(.immediate, 0x29), (.zeroPage, 0x25), (.zeroPageX, 0x35), (.absolute, 0x2D), (.absoluteX, 0x3D),
      (.absoluteY, 0x39), (.indirectPreIndexed, 0x21), (.indirectPostIndexed, 0x31)] ∧
      (Instr.ora o).encodings = [(.immediate, 0x09), (.zeroPage, 0x05), (.zeroPageX, 0x15), (.absolute, 0x0D), (.absoluteX, 0x1D),
      (.absoluteY, 0x19), (.indirectPreIndexed, 0x01), (.indirectPostIndexed, 0x11)] ∧
      (Instr.eor o).encodings = [(.immediate, 0x49), (.zeroPage, 0x45), (.zeroPageX, 0x55), (.absolute, 0x4D), (.absoluteX, 0x5D),
      (.absoluteY, 0x59), (.indirectPreIndexed, 0x41), (.indirectPostIndexed, 0x51)]) ∧
    (∃ t, exec (.and o) s = .next t ∧ (∀ k, t.a.getLsbD k = (s.a.getLsbD k && (value o s).getLsbD k)) ∧
      FlagsNZ t.a.toNat t.p ∧ BitsKept [1, 7] s.p t.p ∧ t.x = s.x ∧ t.y = s.y ∧ ReadStep o s t) ∧
    (∃ t, exec (.ora o) s = .next t ∧ (∀ k, t.a.getLsbD k = (s.a.getLsbD k || (value o s).getLsbD k)) ∧
      FlagsNZ t.a.toNat t.p ∧ BitsKept [1, 7] s.p t.p ∧ t.x = s.x ∧ t.y = s.y ∧ ReadStep o s t) ∧
    (∃ t, exec (.eor o) s = .next t ∧ (∀ k, t.a.getLsbD k = ((s.a.getLsbD k).xor ((value o s).getLsbD k))) ∧
      FlagsNZ t.a.toNat t.p ∧ BitsKept [1, 7] s.p t.p ∧ t.x = s.x ∧ t.y = s.y ∧ ReadStep o s t)

/-- O36. With every operand CMP, CPX or CPY completes: C is whether the register is at least the operand, Z whether
they are equal, N is bit 7 of the 8-bit difference, every other bit of P (V among them), every register and all
memory are unchanged. The encodings are those of the rules. (R123, R135, R136, R137) -/
def Obligations.ComparesKeepTheRegister : Prop :=
  ∀ (o : Operand) (s : State),
    ((Instr.cmp o).encodings = [(.immediate, 0xC9), (.zeroPage, 0xC5), (.zeroPageX, 0xD5), (.absolute, 0xCD), (.absoluteX, 0xDD),
      (.absoluteY, 0xD9), (.indirectPreIndexed, 0xC1), (.indirectPostIndexed, 0xD1)] ∧
      (Instr.cpx o).encodings = [(.immediate, 0xE0), (.zeroPage, 0xE4), (.absolute, 0xEC)] ∧
      (Instr.cpy o).encodings = [(.immediate, 0xC0), (.zeroPage, 0xC4), (.absolute, 0xCC)]) ∧
    (∃ t, exec (.cmp o) s = .next t ∧ getFlag t.p .carry = decide ((value o s).toNat ≤ s.a.toNat) ∧
      getFlag t.p .zero = decide (s.a = value o s) ∧
      FlagsNZ ((s.a.toNat + 256 - (value o s).toNat) % 256) t.p ∧ BitsKept [0, 1, 7] s.p t.p ∧
      t.a = s.a ∧ t.x = s.x ∧ t.y = s.y ∧ ReadStep o s t) ∧
    (∃ t, exec (.cpx o) s = .next t ∧ getFlag t.p .carry = decide ((value o s).toNat ≤ s.x.toNat) ∧
      getFlag t.p .zero = decide (s.x = value o s) ∧
      FlagsNZ ((s.x.toNat + 256 - (value o s).toNat) % 256) t.p ∧ BitsKept [0, 1, 7] s.p t.p ∧
      t.a = s.a ∧ t.x = s.x ∧ t.y = s.y ∧ ReadStep o s t) ∧
    (∃ t, exec (.cpy o) s = .next t ∧ getFlag t.p .carry = decide ((value o s).toNat ≤ s.y.toNat) ∧
      getFlag t.p .zero = decide (s.y = value o s) ∧
      FlagsNZ ((s.y.toNat + 256 - (value o s).toNat) % 256) t.p ∧ BitsKept [0, 1, 7] s.p t.p ∧
      t.a = s.a ∧ t.x = s.x ∧ t.y = s.y ∧ ReadStep o s t)

/-- O37. With every operand BIT completes: Z is whether A and the operand have no bit in common, N and V are the
operand's bits 7 and 6, every other bit of P (C among them), every register and all memory are unchanged. The
encodings are those of the rule. (R127, R138) -/
def Obligations.BitTestsTheOperand : Prop :=
  ∀ (o : Operand) (s : State), (Instr.bit o).encodings = [(.zeroPage, 0x24), (.absolute, 0x2C)] ∧
    ∃ t, exec (.bit o) s = .next t ∧ getFlag t.p .zero = decide (s.a &&& value o s = 0) ∧
      getFlag t.p .negative = (value o s).getLsbD 7 ∧ getFlag t.p .overflow = (value o s).getLsbD 6 ∧
      BitsKept [1, 6, 7] s.p t.p ∧ t.a = s.a ∧ t.x = s.x ∧ t.y = s.y ∧ ReadStep o s t

/-- O38. With every operand INC or DEC completes: the byte read at the effective address plus or minus 1 mod 256 is
written back there, by one read and one write; N and Z are those of the new byte; every other bit of P, every
register but PC and every other byte of memory are unchanged; the cost has no page-cross penalty. The encodings are
those of the rules. (R139, R140) -/
def Obligations.IncrementsOfMemory : Prop :=
  ∀ (o : Operand) (s : State),
    ((Instr.inc o).encodings = [(.zeroPage, 0xE6), (.zeroPageX, 0xF6), (.absolute, 0xEE), (.absoluteX, 0xFE)] ∧
      (Instr.dec o).encodings = [(.zeroPage, 0xC6), (.zeroPageX, 0xD6), (.absolute, 0xCE), (.absoluteX, 0xDE)]) ∧
    (∃ (t : State) (r : Byte), exec (.inc o) s = .next t ∧ r.toNat = ((oldByte o s).toNat + 1) % 256 ∧
      FlagsNZ r.toNat t.p ∧ BitsKept [1, 7] s.p t.p ∧ ModifyStep o r s t) ∧
    (∃ (t : State) (r : Byte), exec (.dec o) s = .next t ∧ r.toNat = ((oldByte o s).toNat + 255) % 256 ∧
      FlagsNZ r.toNat t.p ∧ BitsKept [1, 7] s.p t.p ∧ ModifyStep o r s t)

/-- O39. Each completes: the register is one more or one less mod 256, N and Z are those of the result, every other
bit of P, every other register and all memory are unchanged; one byte, cost 2. (R141, R142, R143, R144) -/
def Obligations.IncrementsOfRegisters : Prop :=
  ∀ s : State,
    (encode .inx = [0xE8] ∧ encode .iny = [0xC8] ∧ encode .dex = [0xCA] ∧ encode .dey = [0x88]) ∧
    (∃ t, exec .inx s = .next t ∧ t.x.toNat = (s.x.toNat + 1) % 256 ∧ t.a = s.a ∧ t.y = s.y ∧ t.sp = s.sp ∧
      FlagsNZ t.x.toNat t.p ∧ BitsKept [1, 7] s.p t.p ∧ ImpliedStep s t) ∧
    (∃ t, exec .iny s = .next t ∧ t.y.toNat = (s.y.toNat + 1) % 256 ∧ t.a = s.a ∧ t.x = s.x ∧ t.sp = s.sp ∧
      FlagsNZ t.y.toNat t.p ∧ BitsKept [1, 7] s.p t.p ∧ ImpliedStep s t) ∧
    (∃ t, exec .dex s = .next t ∧ t.x.toNat = (s.x.toNat + 255) % 256 ∧ t.a = s.a ∧ t.y = s.y ∧ t.sp = s.sp ∧
      FlagsNZ t.x.toNat t.p ∧ BitsKept [1, 7] s.p t.p ∧ ImpliedStep s t) ∧
    (∃ t, exec .dey s = .next t ∧ t.y.toNat = (s.y.toNat + 255) % 256 ∧ t.a = s.a ∧ t.x = s.x ∧ t.sp = s.sp ∧
      FlagsNZ t.y.toNat t.p ∧ BitsKept [1, 7] s.p t.p ∧ ImpliedStep s t)

/-- O40. With the accumulator or any byte of memory as operand v, ASL completes with the result 2v mod 256 and C =
bit 7 of v, LSR with the result v / 2 and C = bit 0 of v; N (0 for LSR) and Z are those of the result, the result
goes to A or by one read and one write to memory, and everything else is unchanged. The encodings are those of the
rules. (R150, R151) -/
def Obligations.ShiftsByOne : Prop :=
  ∀ (o : ShiftOperand) (s : State),
    ((Instr.asl o).encodings = [(.accumulator, 0x0A), (.zeroPage, 0x06), (.zeroPageX, 0x16), (.absolute, 0x0E),
      (.absoluteX, 0x1E)] ∧
      (Instr.lsr o).encodings = [(.accumulator, 0x4A), (.zeroPage, 0x46), (.zeroPageX, 0x56), (.absolute, 0x4E),
      (.absoluteX, 0x5E)]) ∧
    (∃ (t : State) (r : Byte), exec (.asl o) s = .next t ∧ r.toNat = 2 * (shiftSource o s).toNat % 256 ∧
      ShiftStep o r ((shiftSource o s).getLsbD 7) s t) ∧
    (∃ (t : State) (r : Byte), exec (.lsr o) s = .next t ∧ r.toNat = (shiftSource o s).toNat / 2 ∧
      getFlag t.p .negative = false ∧ ShiftStep o r ((shiftSource o s).getLsbD 0) s t)

/-- O41. With the accumulator or any byte of memory as operand v, ROL completes with the result 2v + C mod 256 and C
= bit 7 of v, ROR with the result v / 2 + 128 C and C = bit 0 of v, so that N is the old C; N and Z are those of the
result, the result goes to A or by one read and one write to memory, and everything else is unchanged. The encodings
are those of the rules. (R152, R153) -/
def Obligations.RotatesThroughCarry : Prop :=
  ∀ (o : ShiftOperand) (s : State),
    ((Instr.rol o).encodings = [(.accumulator, 0x2A), (.zeroPage, 0x26), (.zeroPageX, 0x36), (.absolute, 0x2E),
      (.absoluteX, 0x3E)] ∧
      (Instr.ror o).encodings = [(.accumulator, 0x6A), (.zeroPage, 0x66), (.zeroPageX, 0x76), (.absolute, 0x6E),
      (.absoluteX, 0x7E)]) ∧
    (∃ (t : State) (r : Byte), exec (.rol o) s = .next t ∧
      r.toNat = (2 * (shiftSource o s).toNat + (getFlag s.p .carry).toNat) % 256 ∧
      ShiftStep o r ((shiftSource o s).getLsbD 7) s t) ∧
    (∃ (t : State) (r : Byte), exec (.ror o) s = .next t ∧
      r.toNat = (shiftSource o s).toNat / 2 + 128 * (getFlag s.p .carry).toNat ∧
      getFlag t.p .negative = getFlag s.p .carry ∧ ShiftStep o r ((shiftSource o s).getLsbD 0) s t)

/-- O42. Nine executions of ROL A in a row complete and leave A and C as they were, from every state.
(43_shift_rotate.md R152) -/
def Obligations.NineRotatesAreNone : Prop :=
  ∀ s : State, ∃ t, repeatExec (.rol .acc) 9 s = .next t ∧ t.a = s.a ∧ getFlag t.p .carry = getFlag s.p .carry

/-- O43. Each branch completes, taken or not: taken, PC is the address after the branch plus the signed displacement
mod 65536, else the address after the branch; no flag, register but PC or byte of memory changes; the cost is 2,
plus 1 if taken, plus 1 more if the target is in another page than the address after the branch. The encodings and
conditions are those of the rules. The meaning makes no access of its own: that the displacement, of which R160
gives the handler one read, is already read at the fetch is the model's reading (log entry 5, DEDUCED).
(44_control_transfer.md R160, 44_control_transfer.md R162, 44_control_transfer.md R163, 44_control_transfer.md R164,
44_control_transfer.md R165, 44_control_transfer.md R166, 44_control_transfer.md R167, 44_control_transfer.md R168,
44_control_transfer.md R169) -/
def Obligations.BranchesOnFlags : Prop :=
  ∀ (d : Byte) (s : State),
    (encode (.bcc d) = [0x90, d] ∧ encode (.bcs d) = [0xB0, d] ∧ encode (.beq d) = [0xF0, d] ∧
      encode (.bmi d) = [0x30, d] ∧ encode (.bne d) = [0xD0, d] ∧ encode (.bpl d) = [0x10, d] ∧
      encode (.bvc d) = [0x50, d] ∧ encode (.bvs d) = [0x70, d]) ∧
    (∃ t, exec (.bcc d) s = .next t ∧ BranchStep (!getFlag s.p .carry) d s t) ∧
    (∃ t, exec (.bcs d) s = .next t ∧ BranchStep (getFlag s.p .carry) d s t) ∧
    (∃ t, exec (.beq d) s = .next t ∧ BranchStep (getFlag s.p .zero) d s t) ∧
    (∃ t, exec (.bmi d) s = .next t ∧ BranchStep (getFlag s.p .negative) d s t) ∧
    (∃ t, exec (.bne d) s = .next t ∧ BranchStep (!getFlag s.p .zero) d s t) ∧
    (∃ t, exec (.bpl d) s = .next t ∧ BranchStep (!getFlag s.p .negative) d s t) ∧
    (∃ t, exec (.bvc d) s = .next t ∧ BranchStep (!getFlag s.p .overflow) d s t) ∧
    (∃ t, exec (.bvs d) s = .next t ∧ BranchStep (getFlag s.p .overflow) d s t)

/-- O44. JMP absolute completes with PC its operand and no data access. JMP indirect completes: it reads the low
byte at the pointer and the high byte at the pointer plus 1 within the pointer's page, and PC is the word of the two
bytes answered (memory's bytes behind a plain RAM port). No flag, register but PC or byte of memory changes; costs 3
and 5. The encodings are those of the rules. (R88, R170, R171) -/
def Obligations.JumpsSetPC : Prop :=
  (∀ (a : Word) (s : State), encode (.jmp (.abs a)) = [0x4C, loByte a, hiByte a] ∧
      ∃ t, exec (.jmp (.abs a)) s = .next t ∧ t.pc = a ∧ t.bus = s.bus ∧ RegistersKept s t ∧ t.sp = s.sp ∧
        MemoryKept s t ∧ Costs s t 3 0) ∧
    (∀ (p : Word) (s : State), encode (.jmp (.ind p)) = [0x6C, loByte p, hiByte p] ∧
      ∃ (t : State) (lo hi : Byte), exec (.jmp (.ind p)) s = .next t ∧
        t.bus = s.bus ++ [.read p lo, .read (BitVec.ofNat 16 (p.toNat / 256 * 256 + (p.toNat + 1) % 256)) hi] ∧
        t.pc.toNat = hi.toNat * 256 + lo.toNat ∧
        (PlainRam s → lo = memRead s.mem p.toNat ∧
          hi = memRead s.mem (p.toNat / 256 * 256 + (p.toNat + 1) % 256)) ∧
        RegistersKept s t ∧ t.sp = s.sp ∧ MemoryKept s t ∧ Costs s t 5 0)

/-- O45. JSR completes: PC + 2 mod 65536 is pushed, high byte first, at 0x0100 + SP and 0x0100 + (SP - 1 mod 256);
SP is 2 less mod 256; PC is the operand; P, A, X, Y and every other byte of memory are unchanged; cost 6. (R172) -/
def Obligations.JsrPushesItsLastByte : Prop :=
  ∀ (a : Word) (s : State), encode (.jsr a) = [0x20, loByte a, hiByte a] ∧
    ∃ (t : State) (hi lo : Byte), exec (.jsr a) s = .next t ∧
      hi.toNat * 256 + lo.toNat = (s.pc.toNat + 2) % 65536 ∧
      t.bus = s.bus ++ [.write (stackSlot s.sp.toNat) hi, .write (stackSlot (s.sp.toNat + 255)) lo] ∧
      Stored (stackSlot s.sp.toNat) hi s t ∧ Stored (stackSlot (s.sp.toNat + 255)) lo s t ∧
      MemoryKeptBut [stackSlot s.sp.toNat, stackSlot (s.sp.toNat + 255)] s t ∧
      t.sp.toNat = (s.sp.toNat + 254) % 256 ∧ t.pc = a ∧ RegistersKept s t ∧ Costs s t 6 0

/-- O46. RTS completes: the low and then the high byte are pulled at 0x0100 + (SP + 1 mod 256) and 0x0100 + (SP + 2
mod 256), PC is their word plus 1 mod 65536, SP is 2 more mod 256, and P, A, X, Y and all memory are unchanged; cost
6. (R173) -/
def Obligations.RtsPullsAndAddsOne : Prop :=
  ∀ s : State, encode .rts = [0x60] ∧
    ∃ (t : State) (lo hi : Byte), exec .rts s = .next t ∧
      t.bus = s.bus ++ [.read (stackSlot (s.sp.toNat + 1)) lo, .read (stackSlot (s.sp.toNat + 2)) hi] ∧
      (PlainRam s → lo = memRead s.mem (stackSlot (s.sp.toNat + 1)).toNat ∧
        hi = memRead s.mem (stackSlot (s.sp.toNat + 2)).toNat) ∧
      t.pc.toNat = (hi.toNat * 256 + lo.toNat + 1) % 65536 ∧ t.sp.toNat = (s.sp.toNat + 2) % 256 ∧
      RegistersKept s t ∧ MemoryKept s t ∧ Costs s t 6 0

/-- O47. Behind a plain RAM port with canonical memory, after a JSR and in any state with the memory and SP it left,
RTS completes with PC the address after the JSR and SP as before it. (44_control_transfer.md R172,
44_control_transfer.md R173, 92_eei_decisions.md D14) -/
def Obligations.RtsReturnsAfterJsr : Prop :=
  ∀ (a : Word) (s t u : State), PlainRam s → memWf s.mem = true → exec (.jsr a) s = .next t → SameStack t u →
    ∃ r, exec .rts u = .next r ∧ r.pc.toNat = (s.pc.toNat + 3) % 65536 ∧ r.sp = s.sp

/-- O48. PHA pushes A, PHP pushes P with bits 4 and 5 forced to 1, at 0x0100 + SP; SP is 1 less mod 256; P, A, X, Y
and every other byte of memory are unchanged; one byte, cost 3. (R180, R181) -/
def Obligations.PushesOfRegisters : Prop :=
  ∀ s : State, (encode .pha = [0x48] ∧ encode .php = [0x08]) ∧
    (∃ t, exec .pha s = .next t ∧ t.bus = s.bus ++ [.write (stackSlot s.sp.toNat) s.a] ∧
      Stored (stackSlot s.sp.toNat) s.a s t ∧ MemoryKeptBut [stackSlot s.sp.toNat] s t ∧
      t.sp.toNat = (s.sp.toNat + 255) % 256 ∧ RegistersKept s t ∧ Advanced 1 s t ∧ Costs s t 3 0) ∧
    (∃ (t : State) (v : Byte), exec .php s = .next t ∧
      (v.getLsbD 4 = true ∧ v.getLsbD 5 = true ∧ BitsKept [4, 5] s.p v) ∧
      t.bus = s.bus ++ [.write (stackSlot s.sp.toNat) v] ∧
      Stored (stackSlot s.sp.toNat) v s t ∧ MemoryKeptBut [stackSlot s.sp.toNat] s t ∧
      t.sp.toNat = (s.sp.toNat + 255) % 256 ∧ RegistersKept s t ∧ Advanced 1 s t ∧ Costs s t 3 0)

/-- O49. PLA and PLP pull the byte at 0x0100 + (SP + 1 mod 256); SP is 1 more mod 256. PLA puts it into A, with N
and Z those of it and every other bit of P kept; PLP puts it into P but for bits 4 and 5, which are kept, and leaves
A. X, Y and all memory are unchanged; one byte, cost 4. (R182, R183) -/
def Obligations.PullsOfRegisters : Prop :=
  ∀ s : State, (encode .pla = [0x68] ∧ encode .plp = [0x28]) ∧
    (∃ (t : State) (v : Byte), exec .pla s = .next t ∧
      t.bus = s.bus ++ [.read (stackSlot (s.sp.toNat + 1)) v] ∧
      (PlainRam s → v = memRead s.mem (stackSlot (s.sp.toNat + 1)).toNat) ∧
      t.a = v ∧ FlagsNZ v.toNat t.p ∧ BitsKept [1, 7] s.p t.p ∧ t.x = s.x ∧ t.y = s.y ∧ t.cfg = s.cfg ∧
      t.sp.toNat = (s.sp.toNat + 1) % 256 ∧ MemoryKept s t ∧ Advanced 1 s t ∧ Costs s t 4 0) ∧
    (∃ (t : State) (v : Byte), exec .plp s = .next t ∧
      t.bus = s.bus ++ [.read (stackSlot (s.sp.toNat + 1)) v] ∧
      (PlainRam s → v = memRead s.mem (stackSlot (s.sp.toNat + 1)).toNat) ∧
      BitsKept [4, 5] v t.p ∧ BitsKept [0, 1, 2, 3, 6, 7] s.p t.p ∧
      t.a = s.a ∧ t.x = s.x ∧ t.y = s.y ∧ t.cfg = s.cfg ∧
      t.sp.toNat = (s.sp.toNat + 1) % 256 ∧ MemoryKept s t ∧ Advanced 1 s t ∧ Costs s t 4 0)

/-- O50. Behind a plain RAM port with canonical memory, after a PHP and in any state with the memory and SP it left
and the same bits 4 and 5 of P, PLP completes with P and SP as before the PHP. (45_stack_flags_system.md R181,
45_stack_flags_system.md R183) -/
def Obligations.PlpRestoresPhp : Prop :=
  ∀ s t u : State, PlainRam s → memWf s.mem = true → exec .php s = .next t → SameStack t u →
    u.p &&& 0x30 = s.p &&& 0x30 → ∃ r, exec .plp u = .next r ∧ r.p = s.p ∧ r.sp = s.sp

/-- O51. Each completes with its flag 0 (CLC, CLD, CLI, CLV) or 1 (SEC, SED, SEI), every other bit of P, every other
register and all memory unchanged; one byte, cost 2. (R184, R185, R186, R187, R188, R189, R190) -/
def Obligations.FlagInstructions : Prop :=
  ∀ s : State,
    (encode .clc = [0x18] ∧ encode .cld = [0xD8] ∧ encode .cli = [0x58] ∧ encode .clv = [0xB8] ∧
      encode .sec = [0x38] ∧ encode .sed = [0xF8] ∧ encode .sei = [0x78]) ∧
    (∃ t, exec .clc s = .next t ∧ getFlag t.p .carry = false ∧ BitsKept [0] s.p t.p ∧
      t.a = s.a ∧ t.x = s.x ∧ t.y = s.y ∧ t.sp = s.sp ∧ ImpliedStep s t) ∧
    (∃ t, exec .cld s = .next t ∧ getFlag t.p .decimal = false ∧ BitsKept [3] s.p t.p ∧
      t.a = s.a ∧ t.x = s.x ∧ t.y = s.y ∧ t.sp = s.sp ∧ ImpliedStep s t) ∧
    (∃ t, exec .cli s = .next t ∧ getFlag t.p .interruptDisable = false ∧ BitsKept [2] s.p t.p ∧
      t.a = s.a ∧ t.x = s.x ∧ t.y = s.y ∧ t.sp = s.sp ∧ ImpliedStep s t) ∧
    (∃ t, exec .clv s = .next t ∧ getFlag t.p .overflow = false ∧ BitsKept [6] s.p t.p ∧
      t.a = s.a ∧ t.x = s.x ∧ t.y = s.y ∧ t.sp = s.sp ∧ ImpliedStep s t) ∧
    (∃ t, exec .sec s = .next t ∧ getFlag t.p .carry = true ∧ BitsKept [0] s.p t.p ∧
      t.a = s.a ∧ t.x = s.x ∧ t.y = s.y ∧ t.sp = s.sp ∧ ImpliedStep s t) ∧
    (∃ t, exec .sed s = .next t ∧ getFlag t.p .decimal = true ∧ BitsKept [3] s.p t.p ∧
      t.a = s.a ∧ t.x = s.x ∧ t.y = s.y ∧ t.sp = s.sp ∧ ImpliedStep s t) ∧
    (∃ t, exec .sei s = .next t ∧ getFlag t.p .interruptDisable = true ∧ BitsKept [2] s.p t.p ∧
      t.a = s.a ∧ t.x = s.x ∧ t.y = s.y ∧ t.sp = s.sp ∧ ImpliedStep s t)

/-- O52. NOP, and with ILLEGAL_OPCODE_POLICY = NOP each illegal opcode, completes and changes nothing but PC, which
is 1 more mod 65536, and the cycle counter; one byte, no access beyond the opcode fetch, cost 2 under TABLE and 1
access. (R191, R194) -/
def Obligations.NopAndIllegalOnlyAdvance : Prop :=
  ∀ s : State, encode .nop = [0xEA] ∧
    (∃ t, exec .nop s = .next t ∧ RegistersKept s t ∧ t.sp = s.sp ∧ ImpliedStep s t) ∧
    ∀ op : Byte, illegalBytes.contains op.toNat = true → encode (.ill op) = [op] ∧
      (s.cfg.illegalPolicy = .nop →
        ∃ t, exec (.ill op) s = .next t ∧ RegistersKept s t ∧ t.sp = s.sp ∧ ImpliedStep s t)

/-- O53. BRK completes whatever I holds: PC + 2 mod 65536 is pushed high byte first and then P with bits 4 and 5
forced to 1, by three writes at 0x0100 + SP, SP - 1 and SP - 2 mod 256; then the vector is read at 0xFFFE and 0xFFFF
and PC is the word of the two bytes answered; SP is 3 less mod 256; I is 1, every other bit of P, A, X, Y and every
other byte of memory are unchanged; cost 7. (R192) -/
def Obligations.BrkEntersTheTrap : Prop :=
  ∀ s : State, encode .brk = [0x00] ∧
    ∃ (t : State) (retHi retLo status lo hi : Byte), exec .brk s = .next t ∧
      retHi.toNat * 256 + retLo.toNat = (s.pc.toNat + 2) % 65536 ∧
      (status.getLsbD 4 = true ∧ status.getLsbD 5 = true ∧ BitsKept [4, 5] s.p status) ∧
      t.bus = s.bus ++
        [.write (stackSlot s.sp.toNat) retHi, .write (stackSlot (s.sp.toNat + 255)) retLo,
          .write (stackSlot (s.sp.toNat + 254)) status, .read 0xFFFE lo, .read 0xFFFF hi] ∧
      Stored (stackSlot s.sp.toNat) retHi s t ∧ Stored (stackSlot (s.sp.toNat + 255)) retLo s t ∧
      Stored (stackSlot (s.sp.toNat + 254)) status s t ∧
      MemoryKeptBut [stackSlot s.sp.toNat, stackSlot (s.sp.toNat + 255), stackSlot (s.sp.toNat + 254)] s t ∧
      t.pc.toNat = hi.toNat * 256 + lo.toNat ∧
      (PlainRam s → lo = memRead s.mem 0xFFFE ∧ hi = memRead s.mem 0xFFFF) ∧
      t.sp.toNat = (s.sp.toNat + 253) % 256 ∧
      getFlag t.p .interruptDisable = true ∧ BitsKept [2] s.p t.p ∧
      t.a = s.a ∧ t.x = s.x ∧ t.y = s.y ∧ t.cfg = s.cfg ∧ Costs s t 7 0

/-- O54. RTI completes: three bytes are pulled in rising order from 0x0100 + (SP + 1 mod 256) on, the status, PC low
and PC high; P is the status but for bits 4 and 5, which are kept; PC is the word with nothing added; SP is 3 more
mod 256; A, X, Y and all memory are unchanged; cost 6. (R193) -/
def Obligations.RtiLeavesTheTrap : Prop :=
  ∀ s : State, encode .rti = [0x40] ∧
    ∃ (t : State) (v lo hi : Byte), exec .rti s = .next t ∧
      t.bus = s.bus ++
        [.read (stackSlot (s.sp.toNat + 1)) v, .read (stackSlot (s.sp.toNat + 2)) lo,
          .read (stackSlot (s.sp.toNat + 3)) hi] ∧
      (PlainRam s → v = memRead s.mem (stackSlot (s.sp.toNat + 1)).toNat ∧
        lo = memRead s.mem (stackSlot (s.sp.toNat + 2)).toNat ∧
        hi = memRead s.mem (stackSlot (s.sp.toNat + 3)).toNat) ∧
      BitsKept [4, 5] v t.p ∧ BitsKept [0, 1, 2, 3, 6, 7] s.p t.p ∧
      t.pc.toNat = hi.toNat * 256 + lo.toNat ∧ t.sp.toNat = (s.sp.toNat + 3) % 256 ∧
      t.a = s.a ∧ t.x = s.x ∧ t.y = s.y ∧ t.cfg = s.cfg ∧ MemoryKept s t ∧ Costs s t 6 0

/-- O55. Behind a plain RAM port with canonical memory, after a BRK and in any state with the memory and SP it left
and the same bits 4 and 5 of P, RTI completes with PC the BRK's address plus 2 mod 65536 and P (I included) and SP
as before the BRK. (45_stack_flags_system.md R192, 45_stack_flags_system.md R193, 90_conflicts.md C2) -/
def Obligations.RtiReturnsFromBrk : Prop :=
  ∀ s t u : State, PlainRam s → memWf s.mem = true → exec .brk s = .next t → SameStack t u →
    u.p &&& 0x30 = s.p &&& 0x30 →
    ∃ r, exec .rti u = .next r ∧ r.pc.toNat = (s.pc.toNat + 2) % 65536 ∧ r.p = s.p ∧ r.sp = s.sp

/-- O56. For every instruction but PHP and BRK, changing D beforehand changes nothing in the outcome but D itself,
and not even D where the instruction writes it (CLD, SED, PLP, RTI): ADC and SBC are binary whatever D holds. Behind
an open port this compares two runs in which a read with the same number and address answers alike, the model's
choice (log entry 4, DESIGN CHOICE). (10_state.md R32, 42_arithmetic_logic.md R126) -/
def Obligations.DecimalFlagHasNoEffect : Prop :=
  ∀ (i : Instr) (d : Bool) (s : State), i ≠ .php → i ≠ .brk →
    (writesDecimal i = false →
      exec i (s.withFlag .decimal d) = mapNext (fun t => t.withFlag .decimal d) (exec i s)) ∧
    (writesDecimal i = true → exec i (s.withFlag .decimal d) = exec i s)

/-- O57. A step under another CYCLE_MODEL, or with another value in the cycle counter, gives the same registers,
flags, memory and accesses: the outcomes differ in the counter and that parameter alone. Behind an open port this
compares two runs in which a read with the same number and address answers alike, the model's choice (log entry 4,
DESIGN CHOICE). (70_reset_and_hazards.md R241, 10_state.md R36) -/
def Obligations.CycleModelIsInvisible : Prop :=
  ∀ (m : CycleModel) (n : Nat) (s : State), ∃ k : State → Nat,
    step (retimed m n s) = mapNext (fun t => retimed m (k t) t) (step s)

/-- O58. Whatever instruction completes, each of C, Z, N, I, D and V is unchanged unless the instruction is one of
the writers R29 to R34 list for it, and bits 4 and 5 of P are unchanged always. (10_state.md R26, 10_state.md R28,
10_state.md R29, 10_state.md R30, 10_state.md R31, 10_state.md R32, 10_state.md R33, 10_state.md R34) -/
def Obligations.FlagWriters : Prop :=
  ∀ (i : Instr) (s t : State), exec i s = .next t →
    (writesCarry i = false → getFlag t.p .carry = getFlag s.p .carry) ∧
    (writesZeroNegative i = false →
      getFlag t.p .zero = getFlag s.p .zero ∧ getFlag t.p .negative = getFlag s.p .negative) ∧
    (writesInterruptDisable i = false → getFlag t.p .interruptDisable = getFlag s.p .interruptDisable) ∧
    (writesDecimal i = false → getFlag t.p .decimal = getFlag s.p .decimal) ∧
    (writesOverflow i = false → getFlag t.p .overflow = getFlag s.p .overflow) ∧
    t.p &&& 0x30 = s.p &&& 0x30

/-- O59. Whatever instruction completes, A, X, Y and SP are each unchanged unless the instruction is one of its
writers (R21 to R23), and unless it is a branch, JMP, JSR, RTS, BRK or RTI, PC is the address after it mod 65536.
(10_state.md R21, 10_state.md R22, 10_state.md R23, 40_step_and_addressing.md R74) -/
def Obligations.RegisterWriters : Prop :=
  ∀ (i : Instr) (s t : State), exec i s = .next t →
    (writesA i = false → t.a = s.a) ∧ (writesX i = false → t.x = s.x) ∧ (writesY i = false → t.y = s.y) ∧
    (writesSP i = false → t.sp = s.sp) ∧ (writesPC i = false → Advanced i.length s t)

/-- O60. Whatever instruction completes, unless it is a store, a read-modify-write instruction on memory, PHA, PHP,
JSR or BRK, memory is unchanged and every access it makes is a read. (20_memory.md R48, 40_step_and_addressing.md
R97) -/
def Obligations.MemoryWriters : Prop :=
  ∀ (i : Instr) (s t : State), exec i s = .next t → writesMemory i = false →
    t.mem = s.mem ∧ ∃ l : List Access, t.bus = s.bus ++ l ∧ ∀ a v, Access.write a v ∉ l
end

