-- ==== Sys2Proof/Laws/Bytes.lean ====
section
/-! SUPPORT. The byte and word conversions on numbers (00_scope.md R12, R13). -/
namespace Sys2Proof.Machine

theorem toNat_loByte (a : Word) : (loByte a).toNat = a.toNat % 256 := by simp [loByte]

theorem toNat_hiByte (a : Word) : (hiByte a).toNat = a.toNat / 256 := by
  have := a.isLt
  simp only [hiByte, BitVec.toNat_setWidth, BitVec.toNat_ushiftRight, Nat.shiftRight_eq_div_pow]
  omega

/-- `hi:lo` is `hi * 256 + lo` (R12). -/
theorem toNat_wordOf (hi lo : Byte) : (wordOf hi lo).toNat = hi.toNat * 256 + lo.toNat := by
  have := hi.isLt
  have := lo.isLt
  unfold wordOf
  rw [BitVec.toNat_append, Nat.shiftLeft_eq, ← Nat.mul_comm, ← Nat.two_pow_add_eq_or_of_lt (by omega)]

@[simp] theorem loByte_wordOf (hi lo : Byte) : loByte (wordOf hi lo) = lo := by
  apply BitVec.eq_of_toNat_eq
  have := lo.isLt
  rw [toNat_loByte, toNat_wordOf]; omega

@[simp] theorem hiByte_wordOf (hi lo : Byte) : hiByte (wordOf hi lo) = hi := by
  apply BitVec.eq_of_toNat_eq
  have := lo.isLt
  rw [toNat_hiByte, toNat_wordOf]; omega

@[simp] theorem wordOf_hiByte_loByte (a : Word) : wordOf (hiByte a) (loByte a) = a := by
  apply BitVec.eq_of_toNat_eq
  rw [toNat_wordOf, toNat_hiByte, toNat_loByte]; omega

@[simp] theorem toNat_zext16 (b : Byte) : (zext16 b).toNat = b.toNat := by
  have := b.isLt
  simp only [zext16, BitVec.toNat_setWidth]; omega

/-- Two bytes give one zero-page address each (R42). -/
theorem zext16_injective {b c : Byte} (h : zext16 b = zext16 c) : b = c := by
  apply BitVec.eq_of_toNat_eq
  rw [← toNat_zext16 b, ← toNat_zext16 c, h]

end Sys2Proof.Machine
end

