-- ==== Sys2Proof/Laws/Memory.lean ====
section
/-! SUPPORT. The laws of memory: a read after a write, and that a write keeps the canonical form. -/
namespace Sys2Proof.Machine

@[simp] theorem memRead_nil (n : Nat) : memRead [] n = unlistedByte := rfl

theorem memRead_cons (c : Host.Cell) (m : List Host.Cell) (n : Nat) :
    memRead (c :: m) n = if n = c.1 then c.2 else memRead m n := rfl

/-- The lower bound of a canonical memory may be lowered. -/
theorem memWfFrom_mono {low low' : Nat} {m : List Host.Cell} (h : memWfFrom low m = true) (le : low' ≤ low) :
    memWfFrom low' m = true := by
  cases m with
  | nil => rfl
  | cons c rest =>
    simp only [memWfFrom, Bool.and_eq_true, decide_eq_true_eq] at h ⊢
    exact ⟨⟨⟨le.trans h.1.1.1, h.1.1.2⟩, h.1.2⟩, h.2⟩

/-- An address below a canonical memory's bound is not listed. -/
theorem memRead_below {low n : Nat} {m : List Host.Cell} (h : memWfFrom low m = true) (lt : n < low) :
    memRead m n = unlistedByte := by
  induction m generalizing low with
  | nil => rfl
  | cons c rest ih =>
    simp only [memWfFrom, Bool.and_eq_true, decide_eq_true_eq] at h
    have ne : n ≠ c.1 := by omega
    rw [memRead_cons, if_neg ne]
    exact ih h.2 (by omega)

theorem memWfFrom_memCons {low n : Nat} {v : Byte} {m : List Host.Cell} (h : memWfFrom (n + 1) m = true)
    (le : low ≤ n) (lt : n < 65536) : memWfFrom low (memCons n v m) = true := by
  unfold memCons
  split
  · exact memWfFrom_mono h (by omega)
  · simp only [memWfFrom, Bool.and_eq_true, decide_eq_true_eq]
    exact ⟨⟨⟨le, lt⟩, ‹_›⟩, h⟩

theorem memWfFrom_memWrite {low n : Nat} {m : List Host.Cell} (v : Byte) (h : memWfFrom low m = true)
    (le : low ≤ n) (lt : n < 65536) : memWfFrom low (memWrite m n v) = true := by
  induction m generalizing low with
  | nil => exact memWfFrom_memCons rfl le lt
  | cons c rest ih =>
    have h' := h
    simp only [memWfFrom, Bool.and_eq_true, decide_eq_true_eq] at h
    unfold memWrite
    split
    · refine memWfFrom_memCons ?_ le lt
      simp only [memWfFrom, Bool.and_eq_true, decide_eq_true_eq]
      exact ⟨⟨⟨by omega, h.1.1.2⟩, h.1.2⟩, h.2⟩
    · split
      · subst n
        exact memWfFrom_memCons h.2 le lt
      · simp only [memWfFrom, Bool.and_eq_true, decide_eq_true_eq]
        exact ⟨⟨⟨h.1.1.1, h.1.1.2⟩, h.1.2⟩, ih h.2 (by omega)⟩

/-- A write keeps the canonical form. -/
theorem memWf_memWrite {n : Nat} {m : List Host.Cell} (v : Byte) (h : memWf m = true) (lt : n < 65536) :
    memWf (memWrite m n v) = true :=
  memWfFrom_memWrite v h (Nat.zero_le n) lt

/-- A write at a 16-bit address keeps the canonical form. -/
theorem memWf_memWrite_word {m : List Host.Cell} (a : Word) (v : Byte) (h : memWf m = true) :
    memWf (memWrite m a.toNat v) = true :=
  memWf_memWrite v h a.isLt

theorem memRead_memCons (n k : Nat) (v : Byte) (m : List Host.Cell) (unlisted : memRead m n = unlistedByte) :
    memRead (memCons n v m) k = if k = n then v else memRead m k := by
  unfold memCons
  split
  · split
    · subst_vars; exact unlisted
    · rfl
  · rfl

theorem memRead_memWrite_from {low n : Nat} {m : List Host.Cell} (v : Byte) (k : Nat) (h : memWfFrom low m = true) :
    memRead (memWrite m n v) k = if k = n then v else memRead m k := by
  induction m generalizing low with
  | nil => exact memRead_memCons n k v [] rfl
  | cons c rest ih =>
    have h' := h
    simp only [memWfFrom, Bool.and_eq_true, decide_eq_true_eq] at h
    unfold memWrite
    split
    · exact memRead_memCons n k v _ (memRead_below (low := c.1) (by
        simp only [memWfFrom, Bool.and_eq_true, decide_eq_true_eq]
        exact ⟨⟨⟨le_refl _, h.1.1.2⟩, h.1.2⟩, h.2⟩) ‹_›)
    · split
      · rename_i eq
        rw [memRead_memCons n k v rest (memRead_below h.2 (by omega)), memRead_cons]
        subst eq
        split <;> rfl
      · simp only [memRead_cons, ih h.2]
        by_cases hk : k = c.1
        · rw [if_pos hk, if_neg (by omega), if_pos hk]
        · simp only [if_neg hk]

/-- A read after a write: the byte written at its address, the old byte anywhere else. -/
theorem memRead_memWrite {n : Nat} {m : List Host.Cell} (v : Byte) (k : Nat) (h : memWf m = true) :
    memRead (memWrite m n v) k = if k = n then v else memRead m k :=
  memRead_memWrite_from v k h

theorem memRead_memWrite_same {n : Nat} {m : List Host.Cell} (v : Byte) (h : memWf m = true) :
    memRead (memWrite m n v) n = v := by
  rw [memRead_memWrite v n h, if_pos rfl]

theorem memRead_memCons_other {n k : Nat} (v : Byte) (m : List Host.Cell) (ne : k ≠ n) :
    memRead (memCons n v m) k = memRead m k := by
  unfold memCons
  split
  · rfl
  · rw [memRead_cons, if_neg ne]

/-- A write leaves every other address alone, in any memory. -/
theorem memRead_memWrite_other {n k : Nat} (v : Byte) (m : List Host.Cell) (ne : k ≠ n) :
    memRead (memWrite m n v) k = memRead m k := by
  induction m with
  | nil => exact memRead_memCons_other v [] ne
  | cons c rest ih =>
    unfold memWrite
    split
    · exact memRead_memCons_other v _ ne
    · split
      · rw [memRead_memCons_other v _ ne, memRead_cons, if_neg (by omega)]
      · simp only [memRead_cons, ih]

/-- The same for two 16-bit addresses. -/
theorem memRead_memWrite_word_other {a b : Word} (v : Byte) (m : List Host.Cell) (ne : a ≠ b) :
    memRead (memWrite m b.toNat v) a.toNat = memRead m a.toNat :=
  memRead_memWrite_other v m (fun e => ne (BitVec.eq_of_toNat_eq e))

theorem memEqual_of_reads_from {low : Nat} {m m' : List Host.Cell} (h : memWfFrom low m = true)
    (h' : memWfFrom low m' = true) (eq : ∀ n, memRead m n = memRead m' n) : m = m' := by
  induction m generalizing low m' with
  | nil =>
    cases m' with
    | nil => rfl
    | cons c rest =>
      simp only [memWfFrom, Bool.and_eq_true, decide_eq_true_eq] at h'
      have := eq c.1
      rw [memRead_cons, if_pos rfl] at this
      exact absurd this.symm h'.1.2
  | cons c rest ih =>
    have hc := h
    simp only [memWfFrom, Bool.and_eq_true, decide_eq_true_eq] at h
    cases m' with
    | nil =>
      have := eq c.1
      rw [memRead_cons, if_pos rfl] at this
      exact absurd this h.1.2
    | cons c' rest' =>
      simp only [memWfFrom, Bool.and_eq_true, decide_eq_true_eq] at h'
      have addr : c.1 = c'.1 := by
        have e1 := eq c.1
        have e2 := eq c'.1
        simp only [memRead_cons, if_true] at e1 e2
        rcases Nat.lt_trichotomy c.1 c'.1 with lt | e | gt
        · rw [if_neg (by omega), memRead_below h'.2 (by omega)] at e1
          exact absurd e1 h.1.2
        · exact e
        · rw [if_neg (by omega), memRead_below h.2 (by omega)] at e2
          exact absurd e2.symm h'.1.2
      have val : c.2 = c'.2 := by
        have e1 := eq c.1
        rwa [memRead_cons, if_pos rfl, memRead_cons, if_pos addr] at e1
      have tail : rest = rest' := ih h.2 (by rw [addr]; exact h'.2) (fun n => by
        have e := eq n
        simp only [memRead_cons] at e
        by_cases hn : n = c.1
        · rw [memRead_below h.2 (by omega), memRead_below h'.2 (by omega)]
        · rwa [if_neg hn, if_neg (by omega)] at e)
      rw [tail]
      exact congrArg (· :: rest') (Prod.ext addr val)

/-- Two canonical memories that answer every read alike are the same data. -/
theorem memEqual_of_reads {m m' : List Host.Cell} (h : memWf m = true) (h' : memWf m' = true)
    (eq : ∀ n, memRead m n = memRead m' n) : m = m' :=
  memEqual_of_reads_from h h' eq

end Sys2Proof.Machine
end

