-- ==== Sys2Proof/Laws/State.lean ====
section
/-! SUPPORT. One lemma per field per update of the state, each true by rfl, so that no proof unfolds a record update. -/
namespace Sys2Proof.Machine

/-! `setA` -/

@[simp] theorem State.setA_a (s : State) (v : Byte) : (s.setA v).a = v := rfl
@[simp] theorem State.setA_x (s : State) (v : Byte) : (s.setA v).x = s.x := rfl
@[simp] theorem State.setA_y (s : State) (v : Byte) : (s.setA v).y = s.y := rfl
@[simp] theorem State.setA_sp (s : State) (v : Byte) : (s.setA v).sp = s.sp := rfl
@[simp] theorem State.setA_p (s : State) (v : Byte) : (s.setA v).p = s.p := rfl
@[simp] theorem State.setA_pc (s : State) (v : Byte) : (s.setA v).pc = s.pc := rfl
@[simp] theorem State.setA_cycles (s : State) (v : Byte) : (s.setA v).cycles = s.cycles := rfl
@[simp] theorem State.setA_mem (s : State) (v : Byte) : (s.setA v).mem = s.mem := rfl
@[simp] theorem State.setA_bus (s : State) (v : Byte) : (s.setA v).bus = s.bus := rfl
@[simp] theorem State.setA_portSeq (s : State) (v : Byte) : (s.setA v).portSeq = s.portSeq := rfl
@[simp] theorem State.setA_cfg (s : State) (v : Byte) : (s.setA v).cfg = s.cfg := rfl

/-! `setX` -/

@[simp] theorem State.setX_a (s : State) (v : Byte) : (s.setX v).a = s.a := rfl
@[simp] theorem State.setX_x (s : State) (v : Byte) : (s.setX v).x = v := rfl
@[simp] theorem State.setX_y (s : State) (v : Byte) : (s.setX v).y = s.y := rfl
@[simp] theorem State.setX_sp (s : State) (v : Byte) : (s.setX v).sp = s.sp := rfl
@[simp] theorem State.setX_p (s : State) (v : Byte) : (s.setX v).p = s.p := rfl
@[simp] theorem State.setX_pc (s : State) (v : Byte) : (s.setX v).pc = s.pc := rfl
@[simp] theorem State.setX_cycles (s : State) (v : Byte) : (s.setX v).cycles = s.cycles := rfl
@[simp] theorem State.setX_mem (s : State) (v : Byte) : (s.setX v).mem = s.mem := rfl
@[simp] theorem State.setX_bus (s : State) (v : Byte) : (s.setX v).bus = s.bus := rfl
@[simp] theorem State.setX_portSeq (s : State) (v : Byte) : (s.setX v).portSeq = s.portSeq := rfl
@[simp] theorem State.setX_cfg (s : State) (v : Byte) : (s.setX v).cfg = s.cfg := rfl

/-! `setY` -/

@[simp] theorem State.setY_a (s : State) (v : Byte) : (s.setY v).a = s.a := rfl
@[simp] theorem State.setY_x (s : State) (v : Byte) : (s.setY v).x = s.x := rfl
@[simp] theorem State.setY_y (s : State) (v : Byte) : (s.setY v).y = v := rfl
@[simp] theorem State.setY_sp (s : State) (v : Byte) : (s.setY v).sp = s.sp := rfl
@[simp] theorem State.setY_p (s : State) (v : Byte) : (s.setY v).p = s.p := rfl
@[simp] theorem State.setY_pc (s : State) (v : Byte) : (s.setY v).pc = s.pc := rfl
@[simp] theorem State.setY_cycles (s : State) (v : Byte) : (s.setY v).cycles = s.cycles := rfl
@[simp] theorem State.setY_mem (s : State) (v : Byte) : (s.setY v).mem = s.mem := rfl
@[simp] theorem State.setY_bus (s : State) (v : Byte) : (s.setY v).bus = s.bus := rfl
@[simp] theorem State.setY_portSeq (s : State) (v : Byte) : (s.setY v).portSeq = s.portSeq := rfl
@[simp] theorem State.setY_cfg (s : State) (v : Byte) : (s.setY v).cfg = s.cfg := rfl

/-! `setSP` -/

@[simp] theorem State.setSP_a (s : State) (v : Byte) : (s.setSP v).a = s.a := rfl
@[simp] theorem State.setSP_x (s : State) (v : Byte) : (s.setSP v).x = s.x := rfl
@[simp] theorem State.setSP_y (s : State) (v : Byte) : (s.setSP v).y = s.y := rfl
@[simp] theorem State.setSP_sp (s : State) (v : Byte) : (s.setSP v).sp = v := rfl
@[simp] theorem State.setSP_p (s : State) (v : Byte) : (s.setSP v).p = s.p := rfl
@[simp] theorem State.setSP_pc (s : State) (v : Byte) : (s.setSP v).pc = s.pc := rfl
@[simp] theorem State.setSP_cycles (s : State) (v : Byte) : (s.setSP v).cycles = s.cycles := rfl
@[simp] theorem State.setSP_mem (s : State) (v : Byte) : (s.setSP v).mem = s.mem := rfl
@[simp] theorem State.setSP_bus (s : State) (v : Byte) : (s.setSP v).bus = s.bus := rfl
@[simp] theorem State.setSP_portSeq (s : State) (v : Byte) : (s.setSP v).portSeq = s.portSeq := rfl
@[simp] theorem State.setSP_cfg (s : State) (v : Byte) : (s.setSP v).cfg = s.cfg := rfl

/-! `setP` -/

@[simp] theorem State.setP_a (s : State) (v : Byte) : (s.setP v).a = s.a := rfl
@[simp] theorem State.setP_x (s : State) (v : Byte) : (s.setP v).x = s.x := rfl
@[simp] theorem State.setP_y (s : State) (v : Byte) : (s.setP v).y = s.y := rfl
@[simp] theorem State.setP_sp (s : State) (v : Byte) : (s.setP v).sp = s.sp := rfl
@[simp] theorem State.setP_p (s : State) (v : Byte) : (s.setP v).p = v := rfl
@[simp] theorem State.setP_pc (s : State) (v : Byte) : (s.setP v).pc = s.pc := rfl
@[simp] theorem State.setP_cycles (s : State) (v : Byte) : (s.setP v).cycles = s.cycles := rfl
@[simp] theorem State.setP_mem (s : State) (v : Byte) : (s.setP v).mem = s.mem := rfl
@[simp] theorem State.setP_bus (s : State) (v : Byte) : (s.setP v).bus = s.bus := rfl
@[simp] theorem State.setP_portSeq (s : State) (v : Byte) : (s.setP v).portSeq = s.portSeq := rfl
@[simp] theorem State.setP_cfg (s : State) (v : Byte) : (s.setP v).cfg = s.cfg := rfl

/-! `withNZ` -/

@[simp] theorem State.withNZ_a (s : State) (v : Byte) : (s.withNZ v).a = s.a := rfl
@[simp] theorem State.withNZ_x (s : State) (v : Byte) : (s.withNZ v).x = s.x := rfl
@[simp] theorem State.withNZ_y (s : State) (v : Byte) : (s.withNZ v).y = s.y := rfl
@[simp] theorem State.withNZ_sp (s : State) (v : Byte) : (s.withNZ v).sp = s.sp := rfl
@[simp] theorem State.withNZ_p (s : State) (v : Byte) : (s.withNZ v).p = setNZ s.p v := rfl
@[simp] theorem State.withNZ_pc (s : State) (v : Byte) : (s.withNZ v).pc = s.pc := rfl
@[simp] theorem State.withNZ_cycles (s : State) (v : Byte) : (s.withNZ v).cycles = s.cycles := rfl
@[simp] theorem State.withNZ_mem (s : State) (v : Byte) : (s.withNZ v).mem = s.mem := rfl
@[simp] theorem State.withNZ_bus (s : State) (v : Byte) : (s.withNZ v).bus = s.bus := rfl
@[simp] theorem State.withNZ_portSeq (s : State) (v : Byte) : (s.withNZ v).portSeq = s.portSeq := rfl
@[simp] theorem State.withNZ_cfg (s : State) (v : Byte) : (s.withNZ v).cfg = s.cfg := rfl

/-! `withFlag` -/

@[simp] theorem State.withFlag_a (s : State) (f : Flag) (b : Bool) : (s.withFlag f b).a = s.a := rfl
@[simp] theorem State.withFlag_x (s : State) (f : Flag) (b : Bool) : (s.withFlag f b).x = s.x := rfl
@[simp] theorem State.withFlag_y (s : State) (f : Flag) (b : Bool) : (s.withFlag f b).y = s.y := rfl
@[simp] theorem State.withFlag_sp (s : State) (f : Flag) (b : Bool) : (s.withFlag f b).sp = s.sp := rfl
@[simp] theorem State.withFlag_p (s : State) (f : Flag) (b : Bool) : (s.withFlag f b).p = setFlag s.p f b := rfl
@[simp] theorem State.withFlag_pc (s : State) (f : Flag) (b : Bool) : (s.withFlag f b).pc = s.pc := rfl
@[simp] theorem State.withFlag_cycles (s : State) (f : Flag) (b : Bool) : (s.withFlag f b).cycles = s.cycles := rfl
@[simp] theorem State.withFlag_mem (s : State) (f : Flag) (b : Bool) : (s.withFlag f b).mem = s.mem := rfl
@[simp] theorem State.withFlag_bus (s : State) (f : Flag) (b : Bool) : (s.withFlag f b).bus = s.bus := rfl
@[simp] theorem State.withFlag_portSeq (s : State) (f : Flag) (b : Bool) : (s.withFlag f b).portSeq = s.portSeq := rfl
@[simp] theorem State.withFlag_cfg (s : State) (f : Flag) (b : Bool) : (s.withFlag f b).cfg = s.cfg := rfl

@[simp] theorem State.portRead_value (s : State) (n : Word) : (s.portRead n).1 = s.answer n := rfl

/-! The state after a port read. -/

@[simp] theorem State.portRead_a (s : State) (n : Word) : ((s.portRead n).2).a = s.a := rfl
@[simp] theorem State.portRead_x (s : State) (n : Word) : ((s.portRead n).2).x = s.x := rfl
@[simp] theorem State.portRead_y (s : State) (n : Word) : ((s.portRead n).2).y = s.y := rfl
@[simp] theorem State.portRead_sp (s : State) (n : Word) : ((s.portRead n).2).sp = s.sp := rfl
@[simp] theorem State.portRead_p (s : State) (n : Word) : ((s.portRead n).2).p = s.p := rfl
@[simp] theorem State.portRead_pc (s : State) (n : Word) : ((s.portRead n).2).pc = s.pc := rfl
@[simp] theorem State.portRead_cycles (s : State) (n : Word) : ((s.portRead n).2).cycles = s.cycles := rfl
@[simp] theorem State.portRead_mem (s : State) (n : Word) : ((s.portRead n).2).mem = s.mem := rfl
@[simp] theorem State.portRead_bus (s : State) (n : Word) :
    ((s.portRead n).2).bus = s.bus ++ [.read n (s.answer n)] := rfl
@[simp] theorem State.portRead_portSeq (s : State) (n : Word) : ((s.portRead n).2).portSeq = s.portSeq + 1 := rfl
@[simp] theorem State.portRead_cfg (s : State) (n : Word) : ((s.portRead n).2).cfg = s.cfg := rfl

/-! The state after a port write. -/

@[simp] theorem State.portWrite_a (s : State) (n : Word) (v : Byte) : (s.portWrite n v).a = s.a := rfl
@[simp] theorem State.portWrite_x (s : State) (n : Word) (v : Byte) : (s.portWrite n v).x = s.x := rfl
@[simp] theorem State.portWrite_y (s : State) (n : Word) (v : Byte) : (s.portWrite n v).y = s.y := rfl
@[simp] theorem State.portWrite_sp (s : State) (n : Word) (v : Byte) : (s.portWrite n v).sp = s.sp := rfl
@[simp] theorem State.portWrite_p (s : State) (n : Word) (v : Byte) : (s.portWrite n v).p = s.p := rfl
@[simp] theorem State.portWrite_pc (s : State) (n : Word) (v : Byte) : (s.portWrite n v).pc = s.pc := rfl
@[simp] theorem State.portWrite_cycles (s : State) (n : Word) (v : Byte) : (s.portWrite n v).cycles = s.cycles := rfl
@[simp] theorem State.portWrite_mem (s : State) (n : Word) (v : Byte) :
    (s.portWrite n v).mem = memWrite s.mem n.toNat v := rfl
@[simp] theorem State.portWrite_bus (s : State) (n : Word) (v : Byte) :
    (s.portWrite n v).bus = s.bus ++ [.write n v] := rfl
@[simp] theorem State.portWrite_portSeq (s : State) (n : Word) (v : Byte) :
    (s.portWrite n v).portSeq = s.portSeq + 1 := rfl
@[simp] theorem State.portWrite_cfg (s : State) (n : Word) (v : Byte) : (s.portWrite n v).cfg = s.cfg := rfl

/-! The state after a push. -/

@[simp] theorem State.push_a (s : State) (v : Byte) : (s.push v).a = s.a := rfl
@[simp] theorem State.push_x (s : State) (v : Byte) : (s.push v).x = s.x := rfl
@[simp] theorem State.push_y (s : State) (v : Byte) : (s.push v).y = s.y := rfl
@[simp] theorem State.push_sp (s : State) (v : Byte) : (s.push v).sp = s.sp - 1 := rfl
@[simp] theorem State.push_p (s : State) (v : Byte) : (s.push v).p = s.p := rfl
@[simp] theorem State.push_pc (s : State) (v : Byte) : (s.push v).pc = s.pc := rfl
@[simp] theorem State.push_cycles (s : State) (v : Byte) : (s.push v).cycles = s.cycles := rfl
@[simp] theorem State.push_mem (s : State) (v : Byte) :
    (s.push v).mem = memWrite s.mem (stackAddress s.sp).toNat v := rfl
@[simp] theorem State.push_bus (s : State) (v : Byte) :
    (s.push v).bus = s.bus ++ [.write (stackAddress s.sp) v] := rfl
@[simp] theorem State.push_portSeq (s : State) (v : Byte) : (s.push v).portSeq = s.portSeq + 1 := rfl
@[simp] theorem State.push_cfg (s : State) (v : Byte) : (s.push v).cfg = s.cfg := rfl

@[simp] theorem State.pull_value (s : State) : s.pull.1 = s.answer (stackAddress (s.sp + 1)) := rfl

/-! The state after a pull. -/

@[simp] theorem State.pull_a (s : State) : (s.pull.2).a = s.a := rfl
@[simp] theorem State.pull_x (s : State) : (s.pull.2).x = s.x := rfl
@[simp] theorem State.pull_y (s : State) : (s.pull.2).y = s.y := rfl
@[simp] theorem State.pull_sp (s : State) : (s.pull.2).sp = s.sp + 1 := rfl
@[simp] theorem State.pull_p (s : State) : (s.pull.2).p = s.p := rfl
@[simp] theorem State.pull_pc (s : State) : (s.pull.2).pc = s.pc := rfl
@[simp] theorem State.pull_cycles (s : State) : (s.pull.2).cycles = s.cycles := rfl
@[simp] theorem State.pull_mem (s : State) : (s.pull.2).mem = s.mem := rfl
@[simp] theorem State.pull_bus (s : State) :
    (s.pull.2).bus = s.bus ++ [.read (stackAddress (s.sp + 1)) (s.answer (stackAddress (s.sp + 1)))] := rfl
@[simp] theorem State.pull_portSeq (s : State) : (s.pull.2).portSeq = s.portSeq + 1 := rfl
@[simp] theorem State.pull_cfg (s : State) : (s.pull.2).cfg = s.cfg := rfl

/-! The start of a step. -/

@[simp] theorem State.beginStep_a (s : State) : (s.beginStep).a = s.a := rfl
@[simp] theorem State.beginStep_x (s : State) : (s.beginStep).x = s.x := rfl
@[simp] theorem State.beginStep_y (s : State) : (s.beginStep).y = s.y := rfl
@[simp] theorem State.beginStep_sp (s : State) : (s.beginStep).sp = s.sp := rfl
@[simp] theorem State.beginStep_p (s : State) : (s.beginStep).p = s.p := rfl
@[simp] theorem State.beginStep_pc (s : State) : (s.beginStep).pc = s.pc := rfl
@[simp] theorem State.beginStep_cycles (s : State) : (s.beginStep).cycles = 0 := rfl
@[simp] theorem State.beginStep_mem (s : State) : (s.beginStep).mem = s.mem := rfl
@[simp] theorem State.beginStep_bus (s : State) : (s.beginStep).bus = [] := rfl
@[simp] theorem State.beginStep_portSeq (s : State) : (s.beginStep).portSeq = s.portSeq := rfl
@[simp] theorem State.beginStep_cfg (s : State) : (s.beginStep).cfg = s.cfg := rfl

/-! The end of a step. -/

@[simp] theorem State.retire_a (s : State) (n : Word) (c : CostClass) (m : Mode) (k : Nat) :
    (s.retire n c m k).a = s.a := rfl
@[simp] theorem State.retire_x (s : State) (n : Word) (c : CostClass) (m : Mode) (k : Nat) :
    (s.retire n c m k).x = s.x := rfl
@[simp] theorem State.retire_y (s : State) (n : Word) (c : CostClass) (m : Mode) (k : Nat) :
    (s.retire n c m k).y = s.y := rfl
@[simp] theorem State.retire_sp (s : State) (n : Word) (c : CostClass) (m : Mode) (k : Nat) :
    (s.retire n c m k).sp = s.sp := rfl
@[simp] theorem State.retire_p (s : State) (n : Word) (c : CostClass) (m : Mode) (k : Nat) :
    (s.retire n c m k).p = s.p := rfl
@[simp] theorem State.retire_pc (s : State) (n : Word) (c : CostClass) (m : Mode) (k : Nat) :
    (s.retire n c m k).pc = n := rfl
@[simp] theorem State.retire_cycles (s : State) (n : Word) (c : CostClass) (m : Mode) (k : Nat) :
    (s.retire n c m k).cycles =
      counterValue s.cfg.counterWidth (stepCost s.cfg.cycleModel (baseCost c m) s.bus.length k) := rfl
@[simp] theorem State.retire_mem (s : State) (n : Word) (c : CostClass) (m : Mode) (k : Nat) :
    (s.retire n c m k).mem = s.mem := rfl
@[simp] theorem State.retire_bus (s : State) (n : Word) (c : CostClass) (m : Mode) (k : Nat) :
    (s.retire n c m k).bus = s.bus := rfl
@[simp] theorem State.retire_portSeq (s : State) (n : Word) (c : CostClass) (m : Mode) (k : Nat) :
    (s.retire n c m k).portSeq = s.portSeq := rfl
@[simp] theorem State.retire_cfg (s : State) (n : Word) (c : CostClass) (m : Mode) (k : Nat) :
    (s.retire n c m k).cfg = s.cfg := rfl

end Sys2Proof.Machine
end

