-- ==== Sys2Proof/Laws/Ops.lean ====
section
/-! SUPPORT. What each shared operation can do, said once: the Memory Port, the stack, trap entry and return, the addressing
modes, and the shapes of data access. The proofs about instructions cite these lemmas and do not unfold the operations. -/
namespace Sys2Proof.Machine

/-! The Memory Port. -/

/-- At an address of plain RAM the port answers memory's byte. -/
theorem State.answer_ram {s : State} {n : Word} (ram : openAt s.cfg n = false) :
    s.answer n = memRead s.mem n.toNat := by
  simp [State.answer, ram]

/-- At any other address the port answers the free value of its access. -/
theorem State.answer_open {s : State} {n : Word} (h : openAt s.cfg n = true) :
    s.answer n = Config.portByte s.portSeq n := by
  simp [State.answer, h]

/-- The port's answer depends on nothing but memory, the number of the access and the parameters. -/
theorem State.answer_congr {s t : State} (n : Word) (hm : t.mem = s.mem) (hq : t.portSeq = s.portSeq)
    (hc : t.cfg = s.cfg) : t.answer n = s.answer n := by
  simp [State.answer, hm, hq, hc]

/-- `t` is `s` after some port reads: it differs from `s` in what the port has seen, and in nothing else. -/
def OnlyReads (s t : State) : Prop :=
  ∃ l : List Access, t = { s with bus := s.bus ++ l, portSeq := s.portSeq + l.length }

theorem OnlyReads.refl (s : State) : OnlyReads s s := ⟨[], by simp⟩

theorem OnlyReads.trans {s t u : State} (h : OnlyReads s t) (h' : OnlyReads t u) : OnlyReads s u := by
  obtain ⟨l, rfl⟩ := h
  obtain ⟨l', rfl⟩ := h'
  exact ⟨l ++ l', by simp [Nat.add_assoc]⟩

theorem State.portRead_onlyReads (s : State) (n : Word) : OnlyReads s (s.portRead n).2 :=
  ⟨[.read n (s.answer n)], rfl⟩

theorem State.portReadWord_onlyReads (s : State) (l h : Word) : OnlyReads s (s.portReadWord l h).2 :=
  (s.portRead_onlyReads l).trans ((s.portRead l).2.portRead_onlyReads h)

/-! Two reads of a 16-bit value. -/

theorem State.portReadWord_value (s : State) (l h : Word) :
    (s.portReadWord l h).1 = wordOf ((s.portRead l).2.answer h) (s.answer l) := rfl

@[simp] theorem State.portReadWord_a (s : State) (l h : Word) : ((s.portReadWord l h).2).a = s.a := rfl
@[simp] theorem State.portReadWord_x (s : State) (l h : Word) : ((s.portReadWord l h).2).x = s.x := rfl
@[simp] theorem State.portReadWord_y (s : State) (l h : Word) : ((s.portReadWord l h).2).y = s.y := rfl
@[simp] theorem State.portReadWord_sp (s : State) (l h : Word) : ((s.portReadWord l h).2).sp = s.sp := rfl
@[simp] theorem State.portReadWord_p (s : State) (l h : Word) : ((s.portReadWord l h).2).p = s.p := rfl
@[simp] theorem State.portReadWord_pc (s : State) (l h : Word) : ((s.portReadWord l h).2).pc = s.pc := rfl
@[simp] theorem State.portReadWord_cycles (s : State) (l h : Word) : ((s.portReadWord l h).2).cycles = s.cycles := rfl
@[simp] theorem State.portReadWord_mem (s : State) (l h : Word) : ((s.portReadWord l h).2).mem = s.mem := rfl
@[simp] theorem State.portReadWord_cfg (s : State) (l h : Word) : ((s.portReadWord l h).2).cfg = s.cfg := rfl
@[simp] theorem State.portReadWord_bus (s : State) (l h : Word) :
    ((s.portReadWord l h).2).bus =
      s.bus ++ [.read l (s.answer l), .read h ((s.portRead l).2.answer h)] := by
  simp [State.portReadWord]
@[simp] theorem State.portReadWord_portSeq (s : State) (l h : Word) :
    ((s.portReadWord l h).2).portSeq =
      s.portSeq + 2 := rfl

/-! A 16-bit value pushed: the high byte at SP, the low byte at SP - 1. -/

@[simp] theorem State.pushWord_a (s : State) (w : Word) : (s.pushWord w).a = s.a := rfl
@[simp] theorem State.pushWord_x (s : State) (w : Word) : (s.pushWord w).x = s.x := rfl
@[simp] theorem State.pushWord_y (s : State) (w : Word) : (s.pushWord w).y = s.y := rfl
@[simp] theorem State.pushWord_sp (s : State) (w : Word) : (s.pushWord w).sp = s.sp - 1 - 1 := rfl
@[simp] theorem State.pushWord_p (s : State) (w : Word) : (s.pushWord w).p = s.p := rfl
@[simp] theorem State.pushWord_pc (s : State) (w : Word) : (s.pushWord w).pc = s.pc := rfl
@[simp] theorem State.pushWord_cycles (s : State) (w : Word) : (s.pushWord w).cycles = s.cycles := rfl
@[simp] theorem State.pushWord_mem (s : State) (w : Word) :
    (s.pushWord w).mem =
      memWrite (memWrite s.mem (stackAddress s.sp).toNat (hiByte w)) (stackAddress (s.sp - 1)).toNat (loByte w) := rfl
@[simp] theorem State.pushWord_cfg (s : State) (w : Word) : (s.pushWord w).cfg = s.cfg := rfl
@[simp] theorem State.pushWord_bus (s : State) (w : Word) :
    (s.pushWord w).bus =
      s.bus ++ [.write (stackAddress s.sp) (hiByte w), .write (stackAddress (s.sp - 1)) (loByte w)] := by
  simp [State.pushWord]
@[simp] theorem State.pushWord_portSeq (s : State) (w : Word) :
    (s.pushWord w).portSeq =
      s.portSeq + 2 := rfl

/-! A 16-bit value pulled: the low byte at SP + 1, the high byte at SP + 2. -/

theorem State.pullWord_value (s : State) :
    s.pullWord.1 = wordOf (s.pull.2.answer (stackAddress (s.sp + 1 + 1))) (s.answer (stackAddress (s.sp + 1))) := rfl

@[simp] theorem State.pullWord_a (s : State) : (s.pullWord.2).a = s.a := rfl
@[simp] theorem State.pullWord_x (s : State) : (s.pullWord.2).x = s.x := rfl
@[simp] theorem State.pullWord_y (s : State) : (s.pullWord.2).y = s.y := rfl
@[simp] theorem State.pullWord_sp (s : State) : (s.pullWord.2).sp = s.sp + 1 + 1 := rfl
@[simp] theorem State.pullWord_p (s : State) : (s.pullWord.2).p = s.p := rfl
@[simp] theorem State.pullWord_pc (s : State) : (s.pullWord.2).pc = s.pc := rfl
@[simp] theorem State.pullWord_cycles (s : State) : (s.pullWord.2).cycles = s.cycles := rfl
@[simp] theorem State.pullWord_mem (s : State) : (s.pullWord.2).mem = s.mem := rfl
@[simp] theorem State.pullWord_cfg (s : State) : (s.pullWord.2).cfg = s.cfg := rfl
@[simp] theorem State.pullWord_bus (s : State) :
    (s.pullWord.2).bus =
      s.bus ++ [.read (stackAddress (s.sp + 1)) (s.answer (stackAddress (s.sp + 1))),
        .read (stackAddress (s.sp + 1 + 1)) (s.pull.2.answer (stackAddress (s.sp + 1 + 1)))] := by
  simp [State.pullWord]
@[simp] theorem State.pullWord_portSeq (s : State) :
    (s.pullWord.2).portSeq =
      s.portSeq + 2 := rfl

/-! Trap entry. -/

theorem State.enterTrap_bus_length (s : State) (r : Word) :
    (s.enterTrap r).2.bus.length = s.bus.length + 5 := by
  simp [State.enterTrap]

@[simp] theorem State.enterTrap_a (s : State) (r : Word) : ((s.enterTrap r).2).a = s.a := by simp [State.enterTrap]
@[simp] theorem State.enterTrap_x (s : State) (r : Word) : ((s.enterTrap r).2).x = s.x := by simp [State.enterTrap]
@[simp] theorem State.enterTrap_y (s : State) (r : Word) : ((s.enterTrap r).2).y = s.y := by simp [State.enterTrap]
@[simp] theorem State.enterTrap_sp (s : State) (r : Word) :
    ((s.enterTrap r).2).sp = s.sp - 1 - 1 - 1 := by simp [State.enterTrap]
@[simp] theorem State.enterTrap_p (s : State) (r : Word) :
    ((s.enterTrap r).2).p = setFlag s.p .interruptDisable true := by simp [State.enterTrap]
@[simp] theorem State.enterTrap_pc (s : State) (r : Word) : ((s.enterTrap r).2).pc = s.pc := by simp [State.enterTrap]
@[simp] theorem State.enterTrap_cycles (s : State) (r : Word) :
    ((s.enterTrap r).2).cycles = s.cycles := by simp [State.enterTrap]
@[simp] theorem State.enterTrap_mem (s : State) (r : Word) :
    ((s.enterTrap r).2).mem = memWrite (memWrite (memWrite s.mem (stackAddress s.sp).toNat (hiByte r))
        (stackAddress (s.sp - 1)).toNat (loByte r)) (stackAddress (s.sp - 1 - 1)).toNat (pushedStatus s.p) := by simp [State.enterTrap]
@[simp] theorem State.enterTrap_cfg (s : State) (r : Word) :
    ((s.enterTrap r).2).cfg = s.cfg := by simp [State.enterTrap]
@[simp] theorem State.enterTrap_portSeq (s : State) (r : Word) :
    ((s.enterTrap r).2).portSeq =
      s.portSeq + 5 := by simp [State.enterTrap]

/-! Trap return. -/

theorem State.leaveTrap_bus_length (s : State) : s.leaveTrap.2.bus.length = s.bus.length + 3 := by
  simp [State.leaveTrap]

@[simp] theorem State.leaveTrap_a (s : State) : (s.leaveTrap.2).a = s.a := by simp [State.leaveTrap]
@[simp] theorem State.leaveTrap_x (s : State) : (s.leaveTrap.2).x = s.x := by simp [State.leaveTrap]
@[simp] theorem State.leaveTrap_y (s : State) : (s.leaveTrap.2).y = s.y := by simp [State.leaveTrap]
@[simp] theorem State.leaveTrap_sp (s : State) : (s.leaveTrap.2).sp = s.sp + 1 + 1 + 1 := by simp [State.leaveTrap]
@[simp] theorem State.leaveTrap_p (s : State) :
    (s.leaveTrap.2).p = pulledStatus s.p (s.answer (stackAddress (s.sp + 1))) := by simp [State.leaveTrap]
@[simp] theorem State.leaveTrap_pc (s : State) : (s.leaveTrap.2).pc = s.pc := by simp [State.leaveTrap]
@[simp] theorem State.leaveTrap_cycles (s : State) : (s.leaveTrap.2).cycles = s.cycles := by simp [State.leaveTrap]
@[simp] theorem State.leaveTrap_mem (s : State) : (s.leaveTrap.2).mem = s.mem := by simp [State.leaveTrap]
@[simp] theorem State.leaveTrap_cfg (s : State) : (s.leaveTrap.2).cfg = s.cfg := by simp [State.leaveTrap]
@[simp] theorem State.leaveTrap_portSeq (s : State) :
    (s.leaveTrap.2).portSeq =
      s.portSeq + 3 := by simp [State.leaveTrap]

/-! The addressing modes. -/

/-- The pointer reads `Resolve` makes (R77 to R90). -/
def pointerReads : Operand → Nat
  | .indX _ | .indY _ => 2
  | _ => 0

theorem resolve_onlyReads (o : Operand) (s : State) : OnlyReads s (resolve o s).state := by
  cases o <;> first | exact OnlyReads.refl s | exact State.portReadWord_onlyReads s _ _

theorem resolve_bus_length (o : Operand) (s : State) :
    (resolve o s).state.bus.length = s.bus.length + pointerReads o := by
  cases o <;> simp [resolve, indexed, State.zeroPageWord, pointerReads]

/-! The state after `Resolve`. -/

@[simp] theorem resolve_a (o : Operand) (s : State) : ((resolve o s).state).a = s.a := by cases o <;> rfl
@[simp] theorem resolve_x (o : Operand) (s : State) : ((resolve o s).state).x = s.x := by cases o <;> rfl
@[simp] theorem resolve_y (o : Operand) (s : State) : ((resolve o s).state).y = s.y := by cases o <;> rfl
@[simp] theorem resolve_sp (o : Operand) (s : State) : ((resolve o s).state).sp = s.sp := by cases o <;> rfl
@[simp] theorem resolve_p (o : Operand) (s : State) : ((resolve o s).state).p = s.p := by cases o <;> rfl
@[simp] theorem resolve_pc (o : Operand) (s : State) : ((resolve o s).state).pc = s.pc := by cases o <;> rfl
@[simp] theorem resolve_cycles (o : Operand) (s : State) :
    ((resolve o s).state).cycles = s.cycles := by cases o <;> rfl
@[simp] theorem resolve_mem (o : Operand) (s : State) : ((resolve o s).state).mem = s.mem := by cases o <;> rfl
@[simp] theorem resolve_cfg (o : Operand) (s : State) : ((resolve o s).state).cfg = s.cfg := by cases o <;> rfl

/-! The data read of an operand. -/

theorem loadOperand_imm (v : Byte) (s : State) : loadOperand (.imm v) s = ⟨v, false, s⟩ := rfl

/-- Any operand but an immediate one is read at its effective address. -/
theorem loadOperand_memory {o : Operand} (s : State) (h : ∀ v, o ≠ .imm v) :
    loadOperand o s =
      ⟨(resolve o s).state.answer (resolve o s).ea, (resolve o s).crossed,
        ((resolve o s).state.portRead (resolve o s).ea).2⟩ := by
  cases o <;> first | rfl | exact absurd rfl (h _)

theorem loadOperand_onlyReads (o : Operand) (s : State) : OnlyReads s (loadOperand o s).state := by
  cases o with
  | imm v => exact OnlyReads.refl s
  | _ => exact (resolve_onlyReads _ s).trans (State.portRead_onlyReads _ _)

/-- The accesses an operand's data read makes after the instruction has been fetched. -/
def dataReads : Operand → Nat
  | .imm _ => 0
  | o => pointerReads o + 1

theorem loadOperand_bus_length (o : Operand) (s : State) :
    (loadOperand o s).state.bus.length = s.bus.length + dataReads o := by
  cases o <;>
    simp [loadOperand, resolve, indexed, State.zeroPageWord, dataReads, pointerReads]

/-! The state after the data read. -/

@[simp] theorem loadOperand_a (o : Operand) (s : State) : ((loadOperand o s).state).a = s.a := by cases o <;> rfl
@[simp] theorem loadOperand_x (o : Operand) (s : State) : ((loadOperand o s).state).x = s.x := by cases o <;> rfl
@[simp] theorem loadOperand_y (o : Operand) (s : State) : ((loadOperand o s).state).y = s.y := by cases o <;> rfl
@[simp] theorem loadOperand_sp (o : Operand) (s : State) : ((loadOperand o s).state).sp = s.sp := by cases o <;> rfl
@[simp] theorem loadOperand_p (o : Operand) (s : State) : ((loadOperand o s).state).p = s.p := by cases o <;> rfl
@[simp] theorem loadOperand_pc (o : Operand) (s : State) : ((loadOperand o s).state).pc = s.pc := by cases o <;> rfl
@[simp] theorem loadOperand_cycles (o : Operand) (s : State) :
    ((loadOperand o s).state).cycles = s.cycles := by cases o <;> rfl
@[simp] theorem loadOperand_mem (o : Operand) (s : State) :
    ((loadOperand o s).state).mem = s.mem := by cases o <;> rfl
@[simp] theorem loadOperand_cfg (o : Operand) (s : State) :
    ((loadOperand o s).state).cfg = s.cfg := by cases o <;> rfl

/-! The shapes of instructions (R97). Each changes PC and the cycle counter through `retire`. -/

theorem State.nextPC_eq (s : State) (m : Mode) : s.nextPC m = s.pc + BitVec.ofNat 16 m.length := rfl

theorem readInstr_eq (o : Operand) (f : Byte → State → State) (s : State) :
    readInstr o f s =
      (f (loadOperand o s).value (loadOperand o s).state).retire (s.nextPC o.mode) .read o.mode
        (pagePenalty .read o.mode (loadOperand o s).crossed) := rfl

/-! A store writes one byte at its effective address and no register. -/

@[simp] theorem storeInstr_a (o : Operand) (v : Byte) (s : State) : (storeInstr o v s).a = s.a := by simp [storeInstr]
@[simp] theorem storeInstr_x (o : Operand) (v : Byte) (s : State) : (storeInstr o v s).x = s.x := by simp [storeInstr]
@[simp] theorem storeInstr_y (o : Operand) (v : Byte) (s : State) : (storeInstr o v s).y = s.y := by simp [storeInstr]
@[simp] theorem storeInstr_sp (o : Operand) (v : Byte) (s : State) :
    (storeInstr o v s).sp = s.sp := by simp [storeInstr]
@[simp] theorem storeInstr_p (o : Operand) (v : Byte) (s : State) : (storeInstr o v s).p = s.p := by simp [storeInstr]
@[simp] theorem storeInstr_pc (o : Operand) (v : Byte) (s : State) :
    (storeInstr o v s).pc = s.nextPC o.mode := by simp [storeInstr]
@[simp] theorem storeInstr_mem (o : Operand) (v : Byte) (s : State) :
    (storeInstr o v s).mem = memWrite s.mem (resolve o s).ea.toNat v := by simp [storeInstr]
@[simp] theorem storeInstr_cfg (o : Operand) (v : Byte) (s : State) :
    (storeInstr o v s).cfg = s.cfg := by simp [storeInstr]

/-! A read-modify-write instruction writes one byte at its effective address, and P. -/

@[simp] theorem modifyMemory_a (o : Operand) (f : Byte → Byte → Byte × Byte) (s : State) :
    (modifyMemory o f s).a = s.a := by simp [modifyMemory]
@[simp] theorem modifyMemory_x (o : Operand) (f : Byte → Byte → Byte × Byte) (s : State) :
    (modifyMemory o f s).x = s.x := by simp [modifyMemory]
@[simp] theorem modifyMemory_y (o : Operand) (f : Byte → Byte → Byte × Byte) (s : State) :
    (modifyMemory o f s).y = s.y := by simp [modifyMemory]
@[simp] theorem modifyMemory_sp (o : Operand) (f : Byte → Byte → Byte × Byte) (s : State) :
    (modifyMemory o f s).sp = s.sp := by simp [modifyMemory]
@[simp] theorem modifyMemory_p (o : Operand) (f : Byte → Byte → Byte × Byte) (s : State) :
    (modifyMemory o f s).p = (f ((resolve o s).state.answer (resolve o s).ea) s.p).2 := by simp [modifyMemory]
@[simp] theorem modifyMemory_pc (o : Operand) (f : Byte → Byte → Byte × Byte) (s : State) :
    (modifyMemory o f s).pc = s.nextPC o.mode := by simp [modifyMemory]
@[simp] theorem modifyMemory_mem (o : Operand) (f : Byte → Byte → Byte × Byte) (s : State) :
    (modifyMemory o f s).mem =
      memWrite s.mem (resolve o s).ea.toNat (f ((resolve o s).state.answer (resolve o s).ea) s.p).1 := by simp [modifyMemory]
@[simp] theorem modifyMemory_cfg (o : Operand) (f : Byte → Byte → Byte × Byte) (s : State) :
    (modifyMemory o f s).cfg = s.cfg := by simp [modifyMemory]

/-! The accumulator form of a shift. -/

@[simp] theorem modifyAccumulator_a (f : Byte → Byte → Byte × Byte) (s : State) :
    (modifyAccumulator f s).a = (f s.a s.p).1 := rfl
@[simp] theorem modifyAccumulator_x (f : Byte → Byte → Byte × Byte) (s : State) :
    (modifyAccumulator f s).x = s.x := rfl
@[simp] theorem modifyAccumulator_y (f : Byte → Byte → Byte × Byte) (s : State) :
    (modifyAccumulator f s).y = s.y := rfl
@[simp] theorem modifyAccumulator_sp (f : Byte → Byte → Byte × Byte) (s : State) :
    (modifyAccumulator f s).sp = s.sp := rfl
@[simp] theorem modifyAccumulator_p (f : Byte → Byte → Byte × Byte) (s : State) :
    (modifyAccumulator f s).p = (f s.a s.p).2 := rfl
@[simp] theorem modifyAccumulator_pc (f : Byte → Byte → Byte × Byte) (s : State) :
    (modifyAccumulator f s).pc = s.pc + 1 := rfl
@[simp] theorem modifyAccumulator_mem (f : Byte → Byte → Byte × Byte) (s : State) :
    (modifyAccumulator f s).mem = s.mem := rfl
@[simp] theorem modifyAccumulator_cfg (f : Byte → Byte → Byte × Byte) (s : State) :
    (modifyAccumulator f s).cfg = s.cfg := rfl

/-! A branch writes PC and nothing else. -/

@[simp] theorem branchInstr_a (taken : Bool) (d : Byte) (s : State) : (branchInstr taken d s).a = s.a := rfl
@[simp] theorem branchInstr_x (taken : Bool) (d : Byte) (s : State) : (branchInstr taken d s).x = s.x := rfl
@[simp] theorem branchInstr_y (taken : Bool) (d : Byte) (s : State) : (branchInstr taken d s).y = s.y := rfl
@[simp] theorem branchInstr_sp (taken : Bool) (d : Byte) (s : State) : (branchInstr taken d s).sp = s.sp := rfl
@[simp] theorem branchInstr_p (taken : Bool) (d : Byte) (s : State) : (branchInstr taken d s).p = s.p := rfl
@[simp] theorem branchInstr_pc (taken : Bool) (d : Byte) (s : State) :
    (branchInstr taken d s).pc = if taken then s.nextPC .relative + sext16 d else s.nextPC .relative := rfl
@[simp] theorem branchInstr_mem (taken : Bool) (d : Byte) (s : State) : (branchInstr taken d s).mem = s.mem := rfl
@[simp] theorem branchInstr_cfg (taken : Bool) (d : Byte) (s : State) : (branchInstr taken d s).cfg = s.cfg := rfl

end Sys2Proof.Machine
end

