-- ==== Sys2Proof/Laws/Decode.lean ====
section
/-! SUPPORT. The decoder and the fetch: the mode, the length and the opcode byte of what is decoded, and what a fetch can
do. -/
namespace Sys2Proof

open Sys2Proof.Machine

/-- A property of every decoded instruction follows row by row of the opcode map (R65): it is enough that each row has it,
for every column. -/
theorem decodeOpcode_rows {P : Instr → Prop} (op b1 b2 : Byte)
    (row0 : op.toNat / 16 = 0x0 → P (decodeRow0 (op.toNat % 16) op b1 b2))
    (row1 : op.toNat / 16 = 0x1 → P (decodeRow1 (op.toNat % 16) op b1 b2))
    (row2 : op.toNat / 16 = 0x2 → P (decodeRow2 (op.toNat % 16) op b1 b2))
    (row3 : op.toNat / 16 = 0x3 → P (decodeRow3 (op.toNat % 16) op b1 b2))
    (row4 : op.toNat / 16 = 0x4 → P (decodeRow4 (op.toNat % 16) op b1 b2))
    (row5 : op.toNat / 16 = 0x5 → P (decodeRow5 (op.toNat % 16) op b1 b2))
    (row6 : op.toNat / 16 = 0x6 → P (decodeRow6 (op.toNat % 16) op b1 b2))
    (row7 : op.toNat / 16 = 0x7 → P (decodeRow7 (op.toNat % 16) op b1 b2))
    (row8 : op.toNat / 16 = 0x8 → P (decodeRow8 (op.toNat % 16) op b1 b2))
    (row9 : op.toNat / 16 = 0x9 → P (decodeRow9 (op.toNat % 16) op b1 b2))
    (rowA : op.toNat / 16 = 0xA → P (decodeRowA (op.toNat % 16) op b1 b2))
    (rowB : op.toNat / 16 = 0xB → P (decodeRowB (op.toNat % 16) op b1 b2))
    (rowC : op.toNat / 16 = 0xC → P (decodeRowC (op.toNat % 16) op b1 b2))
    (rowD : op.toNat / 16 = 0xD → P (decodeRowD (op.toNat % 16) op b1 b2))
    (rowE : op.toNat / 16 = 0xE → P (decodeRowE (op.toNat % 16) op b1 b2))
    (rowF : op.toNat / 16 = 0xF → P (decodeRowF (op.toNat % 16) op b1 b2)) :
    P (decodeOpcode op b1 b2) := by
  have cases : op.toNat / 16 = 0x0 ∨ op.toNat / 16 = 0x1 ∨ op.toNat / 16 = 0x2 ∨ op.toNat / 16 = 0x3 ∨
      op.toNat / 16 = 0x4 ∨ op.toNat / 16 = 0x5 ∨ op.toNat / 16 = 0x6 ∨ op.toNat / 16 = 0x7 ∨
      op.toNat / 16 = 0x8 ∨ op.toNat / 16 = 0x9 ∨ op.toNat / 16 = 0xA ∨ op.toNat / 16 = 0xB ∨
      op.toNat / 16 = 0xC ∨ op.toNat / 16 = 0xD ∨ op.toNat / 16 = 0xE ∨ op.toNat / 16 = 0xF := by
    have := op.isLt; omega
  unfold decodeOpcode
  rcases cases with h | h | h | h | h | h | h | h | h | h | h | h | h | h | h | h <;> simp only [h]
  · exact row0 h
  · exact row1 h
  · exact row2 h
  · exact row3 h
  · exact row4 h
  · exact row5 h
  · exact row6 h
  · exact row7 h
  · exact row8 h
  · exact row9 h
  · exact rowA h
  · exact rowB h
  · exact rowC h
  · exact rowD h
  · exact rowE h
  · exact rowF h

/-- The operand bytes do not change the mode (R55: "There is one format"). -/
theorem decodeOpcode_mode (op b1 b2 : Byte) : (decodeOpcode op b1 b2).mode = (decodeOpcode op 0 0).mode := by
  unfold decodeOpcode
  generalize op.toNat / 16 = n
  generalize op.toNat % 16 = m
  split
  · unfold decodeRow0; split <;> rfl
  · unfold decodeRow1; split <;> rfl
  · unfold decodeRow2; split <;> rfl
  · unfold decodeRow3; split <;> rfl
  · unfold decodeRow4; split <;> rfl
  · unfold decodeRow5; split <;> rfl
  · unfold decodeRow6; split <;> rfl
  · unfold decodeRow7; split <;> rfl
  · unfold decodeRow8; split <;> rfl
  · unfold decodeRow9; split <;> rfl
  · unfold decodeRowA; split <;> rfl
  · unfold decodeRowB; split <;> rfl
  · unfold decodeRowC; split <;> rfl
  · unfold decodeRowD; split <;> rfl
  · unfold decodeRowE; split <;> rfl
  · unfold decodeRowF; split <;> rfl

/-- The length of an instruction is its opcode's (R56). -/
theorem decodeOpcode_length (op b1 b2 : Byte) : (decodeOpcode op b1 b2).length = opcodeLength op := by
  simp only [Instr.length, opcodeLength, decodeOpcode_mode op b1 b2]

theorem byte_of_row_column {op : Byte} {h l : Nat} (row : op.toNat / 16 = h) (column : op.toNat % 16 = l) :
    op = BitVec.ofNat 8 (16 * h + l) := by
  apply BitVec.eq_of_toNat_eq
  have := op.isLt
  simp only [BitVec.toNat_ofNat]
  omega

/-- The opcode byte of a decoded instruction is the byte it was decoded from. -/
theorem opcode?_decodeOpcode (op b1 b2 : Byte) : (decodeOpcode op b1 b2).opcode? = some op := by
  apply decodeOpcode_rows (P := fun i => i.opcode? = some op) op b1 b2
  · intro r; unfold decodeRow0; split <;> first | rfl | (rename_i c; rw [byte_of_row_column r c]; rfl)
  · intro r; unfold decodeRow1; split <;> first | rfl | (rename_i c; rw [byte_of_row_column r c]; rfl)
  · intro r; unfold decodeRow2; split <;> first | rfl | (rename_i c; rw [byte_of_row_column r c]; rfl)
  · intro r; unfold decodeRow3; split <;> first | rfl | (rename_i c; rw [byte_of_row_column r c]; rfl)
  · intro r; unfold decodeRow4; split <;> first | rfl | (rename_i c; rw [byte_of_row_column r c]; rfl)
  · intro r; unfold decodeRow5; split <;> first | rfl | (rename_i c; rw [byte_of_row_column r c]; rfl)
  · intro r; unfold decodeRow6; split <;> first | rfl | (rename_i c; rw [byte_of_row_column r c]; rfl)
  · intro r; unfold decodeRow7; split <;> first | rfl | (rename_i c; rw [byte_of_row_column r c]; rfl)
  · intro r; unfold decodeRow8; split <;> first | rfl | (rename_i c; rw [byte_of_row_column r c]; rfl)
  · intro r; unfold decodeRow9; split <;> first | rfl | (rename_i c; rw [byte_of_row_column r c]; rfl)
  · intro r; unfold decodeRowA; split <;> first | rfl | (rename_i c; rw [byte_of_row_column r c]; rfl)
  · intro r; unfold decodeRowB; split <;> first | rfl | (rename_i c; rw [byte_of_row_column r c]; rfl)
  · intro r; unfold decodeRowC; split <;> first | rfl | (rename_i c; rw [byte_of_row_column r c]; rfl)
  · intro r; unfold decodeRowD; split <;> first | rfl | (rename_i c; rw [byte_of_row_column r c]; rfl)
  · intro r; unfold decodeRowE; split <;> first | rfl | (rename_i c; rw [byte_of_row_column r c]; rfl)
  · intro r; unfold decodeRowF; split <;> first | rfl | (rename_i c; rw [byte_of_row_column r c]; rfl)

theorem Mode.length_cases (m : Mode) : m.length = 1 ∨ m.length = 2 ∨ m.length = 3 := by
  cases m <;> simp [Mode.length]

namespace Machine

/-- A fetch only reads (R76), from the start of the step on. -/
theorem State.fetch_onlyReads (s : State) : OnlyReads s.beginStep s.fetch.2 := by
  unfold State.fetch
  dsimp only
  split
  · exact State.portRead_onlyReads _ _
  · split
    · exact (State.portRead_onlyReads _ _).trans (State.portRead_onlyReads _ _)
    · exact ((State.portRead_onlyReads _ _).trans (State.portRead_onlyReads _ _)).trans (State.portRead_onlyReads _ _)

/-- What is fetched is the instruction of the byte the port answers at PC, with some operand bytes (R70, R72). -/
theorem State.fetch_instr (s : State) : ∃ b1 b2, s.fetch.1 = decodeOpcode (s.answer s.pc) b1 b2 := by
  unfold State.fetch
  dsimp only
  split
  · exact ⟨_, _, rfl⟩
  · split <;> exact ⟨_, _, rfl⟩

/-- A fetch makes one access per byte of the instruction, the opcode's first (R71, R76). -/
theorem State.fetch_bus (s : State) :
    s.fetch.2.bus.length = s.fetch.1.length ∧ ∃ l, s.fetch.2.bus = .read s.pc (s.answer s.pc) :: l := by
  have eq : s.beginStep.answer s.pc = s.answer s.pc := rfl
  have len := fun b1 b2 => decodeOpcode_length (s.answer s.pc) b1 b2
  have cases := Mode.length_cases (decodeOpcode (s.answer s.pc) 0 0).mode
  rw [← Instr.length, ← opcodeLength] at cases
  unfold State.fetch
  dsimp only
  rw [State.portRead_value, eq]
  split
  · rename_i h; exact ⟨by simp [len, h], _, rfl⟩
  · split
    · rename_i h; exact ⟨by simp [len, h], _, rfl⟩
    · have h : opcodeLength (s.answer s.pc) = 3 := by omega
      exact ⟨by simp [len, h], _, rfl⟩

end Machine

end Sys2Proof
end

