-- ==== Sys2Proof/Laws/Flags.lean ====
section
/-! SUPPORT. What the flag writers do to each bit of the status byte (10_state.md R25 to R28). -/
namespace Sys2Proof.Machine

/-- Writing a flag writes its bit and leaves every other bit unchanged (R14). -/
theorem getLsbD_setFlag (p : Byte) (f : Flag) (b : Bool) (k : Nat) :
    (setFlag p f b).getLsbD k = if k = f.bit then b else p.getLsbD k := by
  have small : f.bit < 8 := by cases f <;> decide
  unfold setFlag Flag.mask
  cases b
  · by_cases hk : k = f.bit
    · subst hk; simp [small]
    · by_cases h8 : k < 8
      · have : decide (k - f.bit = 0) = false ∨ k < f.bit := by
          by_cases lt : k < f.bit
          · exact Or.inr lt
          · exact Or.inl (by simp; omega)
        rcases this with h | h <;> simp_all
      · simp [hk, BitVec.getLsbD_of_ge, Nat.le_of_not_lt h8]
  · by_cases hk : k = f.bit
    · subst hk; simp [small]
    · by_cases h8 : k < 8
      · have : decide (k - f.bit = 0) = false ∨ k < f.bit := by
          by_cases lt : k < f.bit
          · exact Or.inr lt
          · exact Or.inl (by simp; omega)
        rcases this with h | h <;> simp_all
      · simp [hk, BitVec.getLsbD_of_ge, Nat.le_of_not_lt h8]

theorem Flag.bit_injective {f g : Flag} (h : f.bit = g.bit) : f = g := by
  cases f <;> cases g <;> first | rfl | exact absurd h (by decide)

@[simp] theorem getFlag_setFlag_same (p : Byte) (f : Flag) (b : Bool) : getFlag (setFlag p f b) f = b := by
  simp [getFlag, getLsbD_setFlag]

theorem getFlag_setFlag_other {f g : Flag} (p : Byte) (b : Bool) (ne : g ≠ f) :
    getFlag (setFlag p f b) g = getFlag p g := by
  have : g.bit ≠ f.bit := fun h => ne (Flag.bit_injective h)
  simp [getFlag, getLsbD_setFlag, this]

/-- `setNZ` writes bits 7 and 1 and leaves the others unchanged (R27). -/
theorem getLsbD_setNZ (p v : Byte) (k : Nat) :
    (setNZ p v).getLsbD k = if k = 7 then v.getLsbD 7 else if k = 1 then v == 0 else p.getLsbD k := by
  simp only [setNZ, getLsbD_setFlag]
  rfl

/-- Two status bytes are equal if their bits are. -/
theorem status_ext {p q : Byte} (h : ∀ k < 8, p.getLsbD k = q.getLsbD k) : p = q :=
  BitVec.eq_of_getLsbD_eq h

/-- No flag is one of the reserved bits 4 and 5 (R26). -/
@[simp] theorem reserved_setFlag (p : Byte) (f : Flag) (b : Bool) : setFlag p f b &&& 0x30#8 = p &&& 0x30#8 := by
  refine status_ext fun k hk => ?_
  rw [BitVec.getLsbD_and, BitVec.getLsbD_and, getLsbD_setFlag]
  split
  · subst_vars; cases f <;> simp [Flag.bit]
  · rfl

@[simp] theorem reserved_setNZ (p v : Byte) : setNZ p v &&& 0x30#8 = p &&& 0x30#8 := by simp only [setNZ, reserved_setFlag]

@[simp] theorem reserved_arithmeticFlags (p : Byte) (r : AluResult) : arithmeticFlags p r &&& 0x30#8 = p &&& 0x30#8 := by
  simp only [arithmeticFlags, reserved_setNZ, reserved_setFlag]

@[simp] theorem reserved_compareFlags (p a b : Byte) : compareFlags p a b &&& 0x30#8 = p &&& 0x30#8 := by
  simp only [compareFlags, reserved_setNZ, reserved_setFlag]

@[simp] theorem reserved_bitTestFlags (p a b : Byte) : bitTestFlags p a b &&& 0x30#8 = p &&& 0x30#8 := by
  simp only [bitTestFlags, reserved_setFlag]

@[simp] theorem reserved_shiftFlags (p : Byte) (r : ShiftResult) : shiftFlags p r &&& 0x30#8 = p &&& 0x30#8 := by
  simp only [shiftFlags, reserved_setNZ, reserved_setFlag]

/-- PLP and RTI keep bits 4 and 5 (R26). -/
@[simp] theorem reserved_pulledStatus (p v : Byte) : pulledStatus p v &&& 0x30#8 = p &&& 0x30#8 := by
  simp only [pulledStatus, BitVec.and_or_distrib_right, BitVec.and_assoc]
  simp

/-- Bits 4 and 5 of the pushed status are 1, the others are P's (R26). -/
theorem getLsbD_pushedStatus (p : Byte) (k : Nat) :
    (pushedStatus p).getLsbD k = if k = 4 ∨ k = 5 then true else p.getLsbD k := by
  by_cases h : k < 8
  · have : k = 0 ∨ k = 1 ∨ k = 2 ∨ k = 3 ∨ k = 4 ∨ k = 5 ∨ k = 6 ∨ k = 7 := by omega
    rcases this with rfl | rfl | rfl | rfl | rfl | rfl | rfl | rfl <;> simp [pushedStatus]
  · have : ¬ (k = 4 ∨ k = 5) := by omega
    simp [this, BitVec.getLsbD_of_ge, Nat.le_of_not_lt h]

/-- The pulled status has bits 4 and 5 of P and the others of the pulled byte (R26). -/
theorem getLsbD_pulledStatus (p v : Byte) (k : Nat) :
    (pulledStatus p v).getLsbD k = if k = 4 ∨ k = 5 then p.getLsbD k else v.getLsbD k := by
  by_cases h : k < 8
  · have : k = 0 ∨ k = 1 ∨ k = 2 ∨ k = 3 ∨ k = 4 ∨ k = 5 ∨ k = 6 ∨ k = 7 := by omega
    rcases this with rfl | rfl | rfl | rfl | rfl | rfl | rfl | rfl <;> simp [pulledStatus]
  · have : ¬ (k = 4 ∨ k = 5) := by omega
    simp [this, BitVec.getLsbD_of_ge, Nat.le_of_not_lt h]

/-- Pulling the pushed status back gives P again (R181, R183). -/
@[simp] theorem pulledStatus_pushedStatus (p q : Byte) (h : q &&& 0x30#8 = p &&& 0x30#8) :
    pulledStatus q (pushedStatus p) = p := by
  refine status_ext fun k hk => ?_
  rw [getLsbD_pulledStatus, getLsbD_pushedStatus]
  split
  · have := congrArg (fun b : Byte => b.getLsbD k) h
    rcases ‹k = 4 ∨ k = 5› with rfl | rfl <;> simpa using this
  · rfl

end Sys2Proof.Machine
end

