-- ==== Sys2Proof/Laws/PerInstr.lean ====
section
/-! SUPPORT. Statements made instruction by instruction: the bytes of a well-formed instruction are as many as its mode's
length (30_encoding.md R55, R56). -/
namespace Sys2Proof.Laws.EncodedLength

/-- A well-formed instruction is encoded in as many bytes as its mode says (R56). -/
def Statement (i : Instr) : Prop := i.wellFormed = true → (encode i).length = i.length

theorem adc (o : Operand) : Statement (.adc o) := by
  cases o <;> first | exact fun _ => rfl | exact fun h => absurd h Bool.false_ne_true

theorem and (o : Operand) : Statement (.and o) := by
  cases o <;> first | exact fun _ => rfl | exact fun h => absurd h Bool.false_ne_true

theorem asl (o : ShiftOperand) : Statement (.asl o) := by
  rcases o with _ | o
  · exact fun _ => rfl
  · cases o <;> first | exact fun _ => rfl | exact fun h => absurd h Bool.false_ne_true

theorem bcc (d : Byte) : Statement (.bcc d) := fun _ => rfl

theorem bcs (d : Byte) : Statement (.bcs d) := fun _ => rfl

theorem beq (d : Byte) : Statement (.beq d) := fun _ => rfl

theorem bit (o : Operand) : Statement (.bit o) := by
  cases o <;> first | exact fun _ => rfl | exact fun h => absurd h Bool.false_ne_true

theorem bmi (d : Byte) : Statement (.bmi d) := fun _ => rfl

theorem bne (d : Byte) : Statement (.bne d) := fun _ => rfl

theorem bpl (d : Byte) : Statement (.bpl d) := fun _ => rfl

theorem brk : Statement .brk := fun _ => rfl

theorem bvc (d : Byte) : Statement (.bvc d) := fun _ => rfl

theorem bvs (d : Byte) : Statement (.bvs d) := fun _ => rfl

theorem clc : Statement .clc := fun _ => rfl

theorem cld : Statement .cld := fun _ => rfl

theorem cli : Statement .cli := fun _ => rfl

theorem clv : Statement .clv := fun _ => rfl

theorem cmp (o : Operand) : Statement (.cmp o) := by
  cases o <;> first | exact fun _ => rfl | exact fun h => absurd h Bool.false_ne_true

theorem cpx (o : Operand) : Statement (.cpx o) := by
  cases o <;> first | exact fun _ => rfl | exact fun h => absurd h Bool.false_ne_true

theorem cpy (o : Operand) : Statement (.cpy o) := by
  cases o <;> first | exact fun _ => rfl | exact fun h => absurd h Bool.false_ne_true

theorem dec (o : Operand) : Statement (.dec o) := by
  cases o <;> first | exact fun _ => rfl | exact fun h => absurd h Bool.false_ne_true

theorem dex : Statement .dex := fun _ => rfl

theorem dey : Statement .dey := fun _ => rfl

theorem eor (o : Operand) : Statement (.eor o) := by
  cases o <;> first | exact fun _ => rfl | exact fun h => absurd h Bool.false_ne_true

theorem inc (o : Operand) : Statement (.inc o) := by
  cases o <;> first | exact fun _ => rfl | exact fun h => absurd h Bool.false_ne_true

theorem inx : Statement .inx := fun _ => rfl

theorem iny : Statement .iny := fun _ => rfl

theorem jmp (o : JumpOperand) : Statement (.jmp o) := by
  cases o <;> exact fun _ => rfl

theorem jsr (a : Word) : Statement (.jsr a) := fun _ => rfl

theorem lda (o : Operand) : Statement (.lda o) := by
  cases o <;> first | exact fun _ => rfl | exact fun h => absurd h Bool.false_ne_true

theorem ldx (o : Operand) : Statement (.ldx o) := by
  cases o <;> first | exact fun _ => rfl | exact fun h => absurd h Bool.false_ne_true

theorem ldy (o : Operand) : Statement (.ldy o) := by
  cases o <;> first | exact fun _ => rfl | exact fun h => absurd h Bool.false_ne_true

theorem lsr (o : ShiftOperand) : Statement (.lsr o) := by
  rcases o with _ | o
  · exact fun _ => rfl
  · cases o <;> first | exact fun _ => rfl | exact fun h => absurd h Bool.false_ne_true

theorem nop : Statement .nop := fun _ => rfl

theorem ora (o : Operand) : Statement (.ora o) := by
  cases o <;> first | exact fun _ => rfl | exact fun h => absurd h Bool.false_ne_true

theorem pha : Statement .pha := fun _ => rfl

theorem php : Statement .php := fun _ => rfl

theorem pla : Statement .pla := fun _ => rfl

theorem plp : Statement .plp := fun _ => rfl

theorem rol (o : ShiftOperand) : Statement (.rol o) := by
  rcases o with _ | o
  · exact fun _ => rfl
  · cases o <;> first | exact fun _ => rfl | exact fun h => absurd h Bool.false_ne_true

theorem ror (o : ShiftOperand) : Statement (.ror o) := by
  rcases o with _ | o
  · exact fun _ => rfl
  · cases o <;> first | exact fun _ => rfl | exact fun h => absurd h Bool.false_ne_true

theorem rti : Statement .rti := fun _ => rfl

theorem rts : Statement .rts := fun _ => rfl

theorem sbc (o : Operand) : Statement (.sbc o) := by
  cases o <;> first | exact fun _ => rfl | exact fun h => absurd h Bool.false_ne_true

theorem sec : Statement .sec := fun _ => rfl

theorem sed : Statement .sed := fun _ => rfl

theorem sei : Statement .sei := fun _ => rfl

theorem sta (o : Operand) : Statement (.sta o) := by
  cases o <;> first | exact fun _ => rfl | exact fun h => absurd h Bool.false_ne_true

theorem stx (o : Operand) : Statement (.stx o) := by
  cases o <;> first | exact fun _ => rfl | exact fun h => absurd h Bool.false_ne_true

theorem sty (o : Operand) : Statement (.sty o) := by
  cases o <;> first | exact fun _ => rfl | exact fun h => absurd h Bool.false_ne_true

theorem tax : Statement .tax := fun _ => rfl

theorem tay : Statement .tay := fun _ => rfl

theorem tsx : Statement .tsx := fun _ => rfl

theorem txa : Statement .txa := fun _ => rfl

theorem txs : Statement .txs := fun _ => rfl

theorem tya : Statement .tya := fun _ => rfl

theorem ill (op : Byte) : Statement (.ill op) := fun _ => rfl

end Sys2Proof.Laws.EncodedLength
end

