-- ==== Sys2Proof/Tests/Slice0.lean ====
section
/-! SUPPORT. The model's own tests, each a named theorem: well-formedness, the decoder on words written from the spec's
encodings, one step of each instruction on vectors of spec/95_test_vectors.md (a name's last part is the vector), and a
witness for the hypotheses of each statement that has any. -/
namespace Sys2Proof.Tests

set_option Elab.async false

open Sys2Proof.Machine Sys2Proof.Claims

/-! Well-formedness: each check refuses a term, and a well-formed term passes both. -/

/-- Check 1: STA has no immediate mode (41 R103). -/
theorem test_wellFormed_refuses_mode : (Instr.sta (.imm 0x00)).wellFormed = false := by decide

/-- Check 2: 0xEA is NOP, no illegal byte (30 R64). -/
theorem test_wellFormed_refuses_illegal_byte : (Instr.ill 0xEA).wellFormed = false := by decide

theorem test_wellFormed_accepts :
    (Instr.sta (.absX 0x0200)).wellFormed = true ∧ (Instr.ill 0x02).wellFormed = true := by decide

/-! The decoder. Each word is the "Encoding" line of the instruction's rule with its operand bytes (30 R57). -/

/-- What the decoder reads, if anything. -/
def decoded (bytes : List Byte) : Option (Instr × List Byte) := (decode bytes).toOption

/-- Rules R100 to R105. -/
theorem test_decode_loads_stores_1 :
    decoded [0xA9, 0x80] = some (.lda (.imm 0x80), []) ∧
    decoded [0xBD, 0xFF, 0x03] = some (.lda (.absX 0x03FF), []) ∧
    decoded [0xA1, 0x20] = some (.lda (.indX 0x20), []) ∧
    decoded [0xB1, 0x40] = some (.lda (.indY 0x40), []) ∧
    decoded [0xB6, 0xFF] = some (.ldx (.zpY 0xFF), []) ∧
    decoded [0xBE, 0x34, 0x12] = some (.ldx (.absY 0x1234), []) ∧
    decoded [0xB4, 0x10] = some (.ldy (.zpX 0x10), []) ∧
    decoded [0x99, 0xFF, 0x02] = some (.sta (.absY 0x02FF), []) := by
  decide +kernel

/-- Rules R100 to R105. -/
theorem test_decode_loads_stores_2 :
    decoded [0x96, 0x01] = some (.stx (.zpY 0x01), []) ∧
    decoded [0x8C, 0x00, 0x02] = some (.sty (.abs 0x0200), []) := by
  decide +kernel

/-- Rules R106 to R111. -/
theorem test_decode_transfers :
    decoded [0xAA] = some (.tax, []) ∧
    decoded [0xA8] = some (.tay, []) ∧
    decoded [0x8A] = some (.txa, []) ∧
    decoded [0x98] = some (.tya, []) ∧
    decoded [0xBA] = some (.tsx, []) ∧
    decoded [0x9A] = some (.txs, []) := by
  decide +kernel

/-- Rules R130 to R144. -/
theorem test_decode_arithmetic_1 :
    decoded [0x69, 0x01] = some (.adc (.imm 0x01), []) ∧
    decoded [0xF1, 0x40] = some (.sbc (.indY 0x40), []) ∧
    decoded [0x21, 0x40] = some (.and (.indX 0x40), []) ∧
    decoded [0x1D, 0xFF, 0x02] = some (.ora (.absX 0x02FF), []) ∧
    decoded [0x55, 0x10] = some (.eor (.zpX 0x10), []) ∧
    decoded [0xD9, 0x34, 0x12] = some (.cmp (.absY 0x1234), []) ∧
    decoded [0xE4, 0x10] = some (.cpx (.zp 0x10), []) ∧
    decoded [0xCC, 0x34, 0x12] = some (.cpy (.abs 0x1234), []) := by
  decide +kernel

/-- Rules R130 to R144. -/
theorem test_decode_arithmetic_2 :
    decoded [0x2C, 0x34, 0x12] = some (.bit (.abs 0x1234), []) ∧
    decoded [0xFE, 0xFF, 0x02] = some (.inc (.absX 0x02FF), []) ∧
    decoded [0xC6, 0x10] = some (.dec (.zp 0x10), []) ∧
    decoded [0xE8] = some (.inx, []) ∧
    decoded [0xC8] = some (.iny, []) ∧
    decoded [0xCA] = some (.dex, []) ∧
    decoded [0x88] = some (.dey, []) := by
  decide +kernel

/-- Rules R150 to R153. -/
theorem test_decode_shifts :
    decoded [0x0A] = some (.asl .acc, []) ∧
    decoded [0x06, 0x10] = some (.asl (.mem (.zp 0x10)), []) ∧
    decoded [0x56, 0x10] = some (.lsr (.mem (.zpX 0x10)), []) ∧
    decoded [0x2E, 0x34, 0x12] = some (.rol (.mem (.abs 0x1234)), []) ∧
    decoded [0x7E, 0xFF, 0x02] = some (.ror (.mem (.absX 0x02FF)), []) := by
  decide +kernel

/-- Rules R160 to R173. -/
theorem test_decode_control_1 :
    decoded [0x90, 0x10] = some (.bcc 0x10, []) ∧
    decoded [0xB0, 0xFE] = some (.bcs 0xFE, []) ∧
    decoded [0xF0, 0x01] = some (.beq 0x01, []) ∧
    decoded [0x30, 0x80] = some (.bmi 0x80, []) ∧
    decoded [0xD0, 0xFE] = some (.bne 0xFE, []) ∧
    decoded [0x10, 0x00] = some (.bpl 0x00, []) ∧
    decoded [0x50, 0x10] = some (.bvc 0x10, []) ∧
    decoded [0x70, 0x7F] = some (.bvs 0x7F, []) := by
  decide +kernel

/-- Rules R160 to R173. -/
theorem test_decode_control_2 :
    decoded [0x4C, 0x34, 0x12] = some (.jmp (.abs 0x1234), []) ∧
    decoded [0x6C, 0xFF, 0x02] = some (.jmp (.ind 0x02FF), []) ∧
    decoded [0x20, 0x00, 0x07] = some (.jsr 0x0700, []) ∧
    decoded [0x60] = some (.rts, []) := by
  decide +kernel

/-- Rules R180 to R194. -/
theorem test_decode_stack_flags_1 :
    decoded [0x48] = some (.pha, []) ∧
    decoded [0x08] = some (.php, []) ∧
    decoded [0x68] = some (.pla, []) ∧
    decoded [0x28] = some (.plp, []) ∧
    decoded [0x18] = some (.clc, []) ∧
    decoded [0xD8] = some (.cld, []) ∧
    decoded [0x58] = some (.cli, []) ∧
    decoded [0xB8] = some (.clv, []) := by
  decide +kernel

/-- Rules R180 to R194. -/
theorem test_decode_stack_flags_2 :
    decoded [0x38] = some (.sec, []) ∧
    decoded [0xF8] = some (.sed, []) ∧
    decoded [0x78] = some (.sei, []) ∧
    decoded [0xEA] = some (.nop, []) ∧
    decoded [0x00] = some (.brk, []) ∧
    decoded [0x40] = some (.rti, []) ∧
    decoded [0x02] = some (.ill 0x02, []) ∧
    decoded [0xFF] = some (.ill 0xFF, []) := by
  decide +kernel

/-- An instruction whose operand bytes are missing is rejected by name, and so is an empty list. -/
theorem test_decode_rejects :
    decode [] = .error .noOpcode ∧ decode [0xA9] = .error (.truncated 0xA9) ∧
    decode [0x4C, 0x34] = .error (.truncated 0x4C) :=
  ⟨rfl, rfl, rfl⟩

/-- The table's numbering: bit 0 is the least significant bit of the opcode byte, the operand bytes are 0. -/
theorem test_decodeTableWord :
    decodeTableWord 8 0xA9 = some (.lda (.imm 0x00)) ∧ decodeTableWord 24 0x02FF6C = some (.jmp (.ind 0x02FF)) := by
  decide +kernel

/-! One step. Each vector states the registers and bytes of memory it lists, and the cycle counter under both cycle models;
the start state is that of 95_test_vectors.md, with the bytes shown from PC on. -/

/-- The start state of a vector: its PC, the instruction's bytes there, and the bytes of memory it gives. -/
def program (pc : Word) (bytes : List Byte) (cells : List (Word × Byte)) : State :=
  { State.powerOn .standard with
    pc := pc
    mem := cells.foldl (fun m c => memWrite m c.1.toNat c.2) (placeBytes [] pc bytes) }

/-- A port that is not plain RAM from 0x2000 to 0x3FFF. -/
def openPort : Config := { Config.standard with openRegions := [(0x2000, 0x3FFF)] }

/-- The step from `s` completes in a state with the property. -/
def stepGives (s : State) (P : State → Prop) [DecidablePred P] : Bool :=
  match step s with
  | .next t    => decide (P t)
  | .fault _   => false
  | .refused _ => false

/-- The step completes with the property, its cost under TABLE and its cost under ACCESS_COUNT. -/
abbrev runs (s : State) (table accesses : Nat) (P : State → Prop) [DecidablePred P] : Prop :=
  stepGives s (fun t => P t ∧ t.cycles = table) = true ∧
  stepGives { s with cfg := { s.cfg with cycleModel := .accessCount } } (fun t => t.cycles = accesses) = true

/-! Loads, stores and transfers (file 41). -/

/-- (zp,X): pointer 0xFE+0x01 = 0xFF, high byte read at 0x0000. -/
theorem test_lda_AM11 :
    runs { program 0x0200 [0xA1, 0xFE]
        [(0x00FF, 0x00), (0x0000, 0x06), (0x0100, 0x07), (0x0600, 0xAA), (0x0700, 0xBB)] with x := 0x01 } 6 5
    (fun t => t.a = 0xAA) := by decide +kernel

/-- (zp),Y with pointer at 0xFF: high byte read at 0x0000. -/
theorem test_lda_AM14 :
    runs { program 0x0200 [0xB1, 0xFF] [(0x00FF, 0x00), (0x0000, 0x07), (0x0702, 0xEE)] with y := 0x02 } 5 5
    (fun t => t.a = 0xEE) := by decide +kernel

/-- ZeroPageY (LDX) wraps: 0xFF + 0x02 = 0x01. -/
theorem test_ldx_AM4 : runs { program 0x0200 [0xB6, 0xFF] [(0x0001, 0x33)] with y := 0x02 } 4 3
    (fun t => t.x = 0x33) := by decide +kernel

/-- LDX #$7F. -/
theorem test_ldx_LS3 : runs (program 0x0200 [0xA2, 0x7F] []) 2 2
    (fun t => t.x = 0x7F ∧ t.p = 0x24) := by decide +kernel

/-- LDY abs,X crossing. -/
theorem test_ldy_LS4 : runs { program 0x0200 [0xBC, 0xFF, 0x10] [(0x1100, 0xFE)] with x := 0x01 } 5 5
    (fun t => t.y = 0xFE ∧ t.p = 0xA4) := by decide +kernel

/-- STA abs,Y crossing: fixed cost 5. -/
theorem test_sta_LS6 : runs { program 0x0200 [0x99, 0xFF, 0x02] [] with a := 0x42, y := 0x01 } 5 4
    (fun t => memRead t.mem 0x0300 = 0x42) := by decide +kernel

/-- STA (zp),Y: fixed cost 6. -/
theorem test_sta_LS7 :
    runs { program 0x0200 [0x91, 0x40] [(0x0040, 0xFF), (0x0041, 0x05)] with a := 0x3C, y := 0x01 } 6 5
    (fun t => memRead t.mem 0x0600 = 0x3C) := by decide +kernel

/-- STX zp,Y wraps. -/
theorem test_stx_LS8 : runs { program 0x0200 [0x96, 0x01] [] with x := 0x07, y := 0xFF } 4 3
    (fun t => memRead t.mem 0x0000 = 0x07) := by decide +kernel

/-- STY abs. -/
theorem test_sty_LS9 : runs { program 0x0200 [0x8C, 0x00, 0x02] [] with y := 0x09 } 4 4
    (fun t => memRead t.mem 0x0200 = 0x09) := by decide +kernel

/-- TAX zero. -/
theorem test_tax_LS10 : runs { program 0x0200 [0xAA] [] with x := 0x33 } 2 1
    (fun t => t.x = 0x00 ∧ t.p = 0x26) := by decide +kernel

/-- TAY negative. -/
theorem test_tay_LS11 : runs { program 0x0200 [0xA8] [] with a := 0x90 } 2 1
    (fun t => t.y = 0x90 ∧ t.p = 0xA4) := by decide +kernel

/-- TXA. -/
theorem test_txa_LS12 : runs { program 0x0200 [0x8A] [] with x := 0x01 } 2 1
    (fun t => t.a = 0x01 ∧ t.p = 0x24) := by decide +kernel

/-- TYA. -/
theorem test_tya_LS13 : runs { program 0x0200 [0x98] [] with y := 0xFF } 2 1
    (fun t => t.a = 0xFF ∧ t.p = 0xA4) := by decide +kernel

/-- TSX after reset value SP=0xFD. -/
theorem test_tsx_LS14 : runs (program 0x0200 [0xBA] []) 2 1
    (fun t => t.x = 0xFD ∧ t.p = 0xA4) := by decide +kernel

/-- TXS sets no flag. -/
theorem test_txs_LS15 : runs (program 0x0200 [0x9A] []) 2 1
    (fun t => t.sp = 0x00 ∧ t.p = 0x24) := by decide +kernel

/-! Arithmetic and logic (file 42). -/

/-- ADC #imm, A=0x7F M=0x01 C=0. -/
theorem test_adc_AL3 : runs { program 0x0200 [0x69, 0x01] [] with a := 0x7F } 2 2
    (fun t => t.a = 0x80 ∧ t.p = 0xE4) := by decide +kernel

/-- ADC with D=1 stays binary: 0x09 + 0x01. -/
theorem test_adc_AL16 : runs { program 0x0200 [0x69, 0x01] [] with a := 0x09, p := 0x2C } 2 2
    (fun t => t.a = 0x0A ∧ t.p = 0x2C) := by decide +kernel

/-- SBC #imm, A=0x05 M=0x05 C=0. -/
theorem test_sbc_AL11 : runs { program 0x0200 [0xE9, 0x05] [] with a := 0x05 } 2 2
    (fun t => t.a = 0xFF ∧ t.p = 0xA4) := by decide +kernel

/-- SBC #imm, A=0x50 M=0xB0 C=1. -/
theorem test_sbc_AL13 : runs { program 0x0200 [0xE9, 0xB0] [] with a := 0x50, p := 0x25 } 2 2
    (fun t => t.a = 0xA0 ∧ t.p = 0xE4) := by decide +kernel

/-- AND #$0F. -/
theorem test_and_AL18 : runs { program 0x0200 [0x29, 0x0F] [] with a := 0xF0 } 2 2
    (fun t => t.a = 0x00 ∧ t.p = 0x26) := by decide +kernel

/-- ORA #$80. -/
theorem test_ora_AL19 : runs { program 0x0200 [0x09, 0x80] [] with a := 0x01 } 2 2
    (fun t => t.a = 0x81 ∧ t.p = 0xA4) := by decide +kernel

/-- EOR #$FF. -/
theorem test_eor_AL20 : runs { program 0x0200 [0x49, 0xFF] [] with a := 0xFF } 2 2
    (fun t => t.a = 0x00 ∧ t.p = 0x26) := by decide +kernel

/-- CMP unsigned, N from difference: 0x01 vs 0x82. -/
theorem test_cmp_AL23 : runs { program 0x0200 [0xC9, 0x82] [] with a := 0x01 } 2 2
    (fun t => t.p = 0x24) := by decide +kernel

/-- CMP leaves V: 0x00 vs 0xFF with V=1. -/
theorem test_cmp_AL24 : runs { program 0x0200 [0xC9, 0xFF] [] with p := 0x64 } 2 2
    (fun t => t.p = 0x64) := by decide +kernel

/-- CPX equal. -/
theorem test_cpx_AL25 : runs { program 0x0200 [0xE0, 0x05] [] with x := 0x05 } 2 2
    (fun t => t.p = 0x27) := by decide +kernel

/-- CPY 0x80 vs 0x01. -/
theorem test_cpy_AL26 : runs { program 0x0200 [0xC0, 0x01] [] with y := 0x80 } 2 2
    (fun t => t.p = 0x25) := by decide +kernel

/-- BIT zp, A & M = 0, M = 0xC0. -/
theorem test_bit_AL27 : runs { program 0x0200 [0x24, 0x10] [(0x0010, 0xC0)] with a := 0x0F } 3 3
    (fun t => t.a = 0x0F ∧ t.p = 0xE6) := by decide +kernel

/-- BIT abs clears N and V, keeps C. -/
theorem test_bit_AL28 : runs { program 0x0200 [0x2C, 0x00, 0x03] [(0x0300, 0x01)] with a := 0x01, p := 0xE5 } 4 4
    (fun t => t.p = 0x25) := by decide +kernel

/-- INC zp 0xFF -> 0x00. -/
theorem test_inc_AL29 : runs (program 0x0200 [0xE6, 0x10] [(0x0010, 0xFF)]) 5 4
    (fun t => t.p = 0x26 ∧ memRead t.mem 0x0010 = 0x00) := by decide +kernel

/-- INC abs,X crossing: fixed cost 7. -/
theorem test_inc_AL31 : runs { program 0x0200 [0xFE, 0xFF, 0x02] [(0x0300, 0x01)] with x := 0x01 } 7 5
    (fun t => t.p = 0x24 ∧ memRead t.mem 0x0300 = 0x02) := by decide +kernel

/-- DEC zp 0x00 -> 0xFF. -/
theorem test_dec_AL32 : runs (program 0x0200 [0xC6, 0x10] []) 5 4
    (fun t => t.p = 0xA4 ∧ memRead t.mem 0x0010 = 0xFF) := by decide +kernel

/-- DEC zp,X 0x01 -> 0x00. -/
theorem test_dec_AL33 : runs { program 0x0200 [0xD6, 0x0F] [(0x0010, 0x01)] with x := 0x01 } 6 4
    (fun t => t.p = 0x26 ∧ memRead t.mem 0x0010 = 0x00) := by decide +kernel

/-- INX 0xFF wraps, C unchanged. -/
theorem test_inx_AL34 : runs { program 0x0200 [0xE8] [] with x := 0xFF, p := 0x25 } 2 1
    (fun t => t.x = 0x00 ∧ t.p = 0x27) := by decide +kernel

/-- INY. -/
theorem test_iny_AL35 : runs (program 0x0200 [0xC8] []) 2 1
    (fun t => t.y = 0x01 ∧ t.p = 0x24) := by decide +kernel

/-- DEX 0x00 -> 0xFF. -/
theorem test_dex_AL36 : runs (program 0x0200 [0xCA] []) 2 1
    (fun t => t.x = 0xFF ∧ t.p = 0xA4) := by decide +kernel

/-- DEY 0x80 -> 0x7F. -/
theorem test_dey_AL37 : runs { program 0x0200 [0x88] [] with y := 0x80 } 2 1
    (fun t => t.y = 0x7F ∧ t.p = 0x24) := by decide +kernel

/-! Shifts and rotates (file 43). -/

/-- ASL A 0x80. -/
theorem test_asl_SH1 : runs { program 0x0200 [0x0A] [] with a := 0x80 } 2 1
    (fun t => t.a = 0x00 ∧ t.p = 0x27) := by decide +kernel

/-- ASL zp keeps V. -/
theorem test_asl_SH3 : runs { program 0x0200 [0x06, 0x20] [(0x0020, 0x81)] with p := 0x64 } 5 4
    (fun t => t.p = 0x65 ∧ memRead t.mem 0x0020 = 0x02) := by decide +kernel

/-- LSR A 0x01. -/
theorem test_lsr_SH4 : runs { program 0x0200 [0x4A] [] with a := 0x01 } 2 1
    (fun t => t.a = 0x00 ∧ t.p = 0x27) := by decide +kernel

/-- LSR abs. -/
theorem test_lsr_SH6 : runs (program 0x0200 [0x4E, 0x00, 0x03] [(0x0300, 0x02)]) 6 5
    (fun t => t.p = 0x24 ∧ memRead t.mem 0x0300 = 0x01) := by decide +kernel

/-- ROL A 0x00, C=1. -/
theorem test_rol_SH8 : runs { program 0x0200 [0x2A] [] with p := 0x25 } 2 1
    (fun t => t.a = 0x01 ∧ t.p = 0x24) := by decide +kernel

/-- ROL zp,X. -/
theorem test_rol_SH9 : runs { program 0x0200 [0x36, 0x1F] [(0x0020, 0x40)] with x := 0x01, p := 0x25 } 6 4
    (fun t => t.p = 0xA4 ∧ memRead t.mem 0x0020 = 0x81) := by decide +kernel

/-- ROR A 0x01, C=0. -/
theorem test_ror_SH10 : runs { program 0x0200 [0x6A] [] with a := 0x01 } 2 1
    (fun t => t.a = 0x00 ∧ t.p = 0x27) := by decide +kernel

/-- ROR abs,X crossing: fixed cost 7. -/
theorem test_ror_SH12 : runs { program 0x0200 [0x7E, 0xFF, 0x02] [(0x0300, 0x03)] with x := 0x01 } 7 5
    (fun t => t.p = 0x25 ∧ memRead t.mem 0x0300 = 0x01) := by decide +kernel

/-! Control transfer (file 44). -/

/-- BCC not taken. -/
theorem test_bcc_CT1 : runs { program 0x0200 [0x90, 0x10] [] with p := 0x25 } 2 2
    (fun t => t.pc = 0x0202) := by decide +kernel

/-- BCC taken, same page. -/
theorem test_bcc_CT2 : runs (program 0x0200 [0x90, 0x10] []) 3 3
    (fun t => t.pc = 0x0212) := by decide +kernel

/-- BCS taken backward, same page. -/
theorem test_bcs_CT3 : runs { program 0x0250 [0xB0, 0xF0] [] with p := 0x25 } 3 3
    (fun t => t.pc = 0x0242) := by decide +kernel

/-- BEQ taken across a page (nextPC 0x00FF -> 0x0100). -/
theorem test_beq_CT4 : runs { program 0x00FD [0xF0, 0x01] [] with p := 0x26 } 4 4
    (fun t => t.pc = 0x0100) := by decide +kernel

/-- BMI taken, d=0x80 (-128). -/
theorem test_bmi_CT5 : runs { program 0x0300 [0x30, 0x80] [] with p := 0xA4 } 4 4
    (fun t => t.pc = 0x0282) := by decide +kernel

/-- BNE d=0xFE: branch to itself. -/
theorem test_bne_CT6 : runs (program 0x0010 [0xD0, 0xFE] []) 3 3
    (fun t => t.pc = 0x0010) := by decide +kernel

/-- Branch whose own page differs from nextPC page: at 0x02FE, d=0x02, nextPC 0x0300, target 0x0302: not crossed. -/
theorem test_bne_CT12 : runs (program 0x02FE [0xD0, 0x02] []) 3 3
    (fun t => t.pc = 0x0302) := by decide +kernel

/-- BPL d=0x00: taken to nextPC, still costs the penalty. -/
theorem test_bpl_CT7 : runs (program 0x0400 [0x10, 0x00] []) 3 3
    (fun t => t.pc = 0x0402) := by decide +kernel

/-- BPL at 0xFFF0 wraps to 0x0012, crossed. -/
theorem test_bpl_CT10 : runs (program 0xFFF0 [0x10, 0x20] []) 4 4
    (fun t => t.pc = 0x0012) := by decide +kernel

/-- BVC not taken (V=1). -/
theorem test_bvc_CT8 : runs { program 0x0200 [0x50, 0x10] [] with p := 0x64 } 2 2
    (fun t => t.pc = 0x0202) := by decide +kernel

/-- BVS taken d=0x7F. -/
theorem test_bvs_CT9 : runs { program 0x0200 [0x70, 0x7F] [] with p := 0x64 } 3 3
    (fun t => t.pc = 0x0281) := by decide +kernel

/-- Indirect (JMP), pointer 0x0210: no page bug. -/
theorem test_jmp_AM15 : runs (program 0x0200 [0x6C, 0x10, 0x02] [(0x0210, 0x00), (0x0211, 0x90)]) 5 5
    (fun t => t.pc = 0x9000) := by decide +kernel

/-- JMP ($02FF) page bug. -/
theorem test_jmp_CT14 : runs (program 0x0400 [0x6C, 0xFF, 0x02] [(0x02FF, 0x34), (0x0200, 0x12), (0x0300, 0x56)]) 5 5
    (fun t => t.pc = 0x1234) := by decide +kernel

/-- JSR. -/
theorem test_jsr_CT15 :
    runs (program 0x0600 [0x20, 0x00, 0x07] []) 6 5
    (fun t => t.sp = 0xFB ∧ t.pc = 0x0700 ∧ memRead t.mem 0x01FD = 0x06 ∧
      memRead t.mem 0x01FC = 0x02) := by decide +kernel

/-- JSR with SP=0x00 wraps. -/
theorem test_jsr_CT16 :
    runs { program 0x0600 [0x20, 0x00, 0x07] [] with sp := 0x00 } 6 5
    (fun t => t.sp = 0xFE ∧ t.pc = 0x0700 ∧ memRead t.mem 0x0100 = 0x06 ∧
      memRead t.mem 0x01FF = 0x02) := by decide +kernel

/-- RTS. -/
theorem test_rts_CT17 : runs { program 0x0200 [0x60] [(0x01FC, 0x02), (0x01FD, 0x06)] with sp := 0xFB } 6 3
    (fun t => t.sp = 0xFD ∧ t.pc = 0x0603) := by decide +kernel

/-- RTS with stacked 0xFFFF returns to 0x0000. -/
theorem test_rts_CT18 : runs (program 0x0200 [0x60] [(0x01FE, 0xFF), (0x01FF, 0xFF)]) 6 3
    (fun t => t.sp = 0xFF ∧ t.pc = 0x0000) := by decide +kernel

/-! Stack, flags and system (file 45). -/

/-- PHA. -/
theorem test_pha_SF1 : runs { program 0x0200 [0x48] [] with a := 0x42 } 3 2
    (fun t => t.sp = 0xFC ∧ memRead t.mem 0x01FD = 0x42) := by decide +kernel

/-- PHA with SP=0x00 wraps. -/
theorem test_pha_SF2 : runs { program 0x0200 [0x48] [] with a := 0x42, sp := 0x00 } 3 2
    (fun t => t.sp = 0xFF ∧ memRead t.mem 0x0100 = 0x42) := by decide +kernel

/-- PHP pushes P OR 0x30. -/
theorem test_php_SF3 : runs (program 0x0200 [0x08] []) 3 2
    (fun t => t.sp = 0xFC ∧ t.p = 0x24 ∧ memRead t.mem 0x01FD = 0x34) := by decide +kernel

/-- PHP with P=0xC3. -/
theorem test_php_SF4 : runs { program 0x0200 [0x08] [] with p := 0xC3 } 3 2
    (fun t => t.p = 0xC3 ∧ memRead t.mem 0x01FD = 0xF3) := by decide +kernel

/-- PLA negative. -/
theorem test_pla_SF5 : runs (program 0x0200 [0x68] [(0x01FE, 0x80)]) 4 2
    (fun t => t.a = 0x80 ∧ t.sp = 0xFE ∧ t.p = 0xA4) := by decide +kernel

/-- PLA with SP=0xFF wraps to 0x0100. -/
theorem test_pla_SF6 : runs { program 0x0200 [0x68] [(0x0100, 0x00)] with a := 0x11, sp := 0xFF } 4 2
    (fun t => t.a = 0x00 ∧ t.sp = 0x00 ∧ t.p = 0x26) := by decide +kernel

/-- PLP 0xFF keeps bits 4, 5. -/
theorem test_plp_SF7 : runs (program 0x0200 [0x28] [(0x01FE, 0xFF)]) 4 2
    (fun t => t.sp = 0xFE ∧ t.p = 0xEF) := by decide +kernel

/-- CLC. -/
theorem test_clc_SF10 : runs { program 0x0200 [0x18] [] with p := 0x25 } 2 1
    (fun t => t.p = 0x24) := by decide +kernel

/-- CLD. -/
theorem test_cld_SF11 : runs { program 0x0200 [0xD8] [] with p := 0x2C } 2 1
    (fun t => t.p = 0x24) := by decide +kernel

/-- CLI. -/
theorem test_cli_SF12 : runs (program 0x0200 [0x58] []) 2 1
    (fun t => t.p = 0x20) := by decide +kernel

/-- CLV. -/
theorem test_clv_SF13 : runs { program 0x0200 [0xB8] [] with p := 0x64 } 2 1
    (fun t => t.p = 0x24) := by decide +kernel

/-- SEC. -/
theorem test_sec_SF14 : runs (program 0x0200 [0x38] []) 2 1
    (fun t => t.p = 0x25) := by decide +kernel

/-- SED. -/
theorem test_sed_SF15 : runs (program 0x0200 [0xF8] []) 2 1
    (fun t => t.p = 0x2C) := by decide +kernel

/-- SEI. -/
theorem test_sei_SF16 : runs { program 0x0200 [0x78] [] with p := 0x20 } 2 1
    (fun t => t.p = 0x24) := by decide +kernel

/-- NOP. -/
theorem test_nop_SF17 : runs (program 0x0200 [0xEA] []) 2 1
    (fun t => t.a = 0x00 ∧ t.x = 0x00 ∧ t.y = 0x00 ∧ t.sp = 0xFD ∧ t.p = 0x24 ∧ t.pc = 0x0201) := by decide +kernel

/-- BRK. -/
theorem test_brk_SF18 :
    runs { program 0x0400 [0x00] [(0xFFFE, 0x00), (0xFFFF, 0x80)] with p := 0x21 } 7 6
    (fun t => t.sp = 0xFA ∧ t.p = 0x25 ∧ t.pc = 0x8000 ∧ memRead t.mem 0x01FD = 0x04 ∧ memRead t.mem 0x01FC = 0x02 ∧
      memRead t.mem 0x01FB = 0x31) := by decide +kernel

/-- BRK at 0xFFFE pushes 0x0000. -/
theorem test_brk_SF20 :
    runs (program 0xFFFE [0x00] []) 7 6
    (fun t => t.sp = 0xFA ∧ t.pc = 0x0000 ∧ memRead t.mem 0x01FD = 0x00 ∧ memRead t.mem 0x01FC = 0x00 ∧
      memRead t.mem 0x01FB = 0x34) := by decide +kernel

/-- RTI. -/
theorem test_rti_SF21 :
    runs { program 0x0200 [0x40] [(0x01FB, 0x31), (0x01FC, 0x02), (0x01FD, 0x04)] with sp := 0xFA, p := 0x25 } 6 4
    (fun t => t.sp = 0xFD ∧ t.p = 0x21 ∧ t.pc = 0x0402) := by decide +kernel

/-- RTI clears I from stack. -/
theorem test_rti_SF22 : runs (program 0x0200 [0x40] [(0x01FE, 0xC3), (0x01FF, 0x00), (0x0100, 0x90)]) 6 4
    (fun t => t.p = 0xE3 ∧ t.pc = 0x9000) := by decide +kernel

/-- illegal byte 0x89 under NOP policy. -/
theorem test_ill_SF24 : runs (program 0x0200 [0x89, 0xAA, 0xBB] []) 2 1
    (fun t => t.a = 0x00 ∧ t.x = 0x00 ∧ t.y = 0x00 ∧ t.sp = 0xFD ∧ t.p = 0x24 ∧ t.pc = 0x0201) := by decide +kernel

/-- Vector SF9: PLP under `P_RESET = 0x34` keeps bit 4. -/
theorem test_plp_SF9 :
    stepGives { program 0x0200 [0x28] [(0x01FE, 0x00)] with p := 0x34 } (fun t => t.p = 0x30) = true := by
  decide +kernel

/-- R195: the byte 0x02 is refused under REFUSE. -/
theorem test_ill_refused :
    step { program 0x0200 [0x02] [] with cfg := { Config.standard with illegalPolicy := .refuse } } =
      .refused (.illegalOpcode 0x02) := rfl

/-! Fetch, reset and the Memory Port. -/

/-- Vector AM19: the operand bytes of an instruction at 0xFFFE wrap to 0xFFFF and 0x0000. -/
theorem test_fetch_AM19 :
    runs (program 0xFFFE [0xAD, 0x34] [(0x0000, 0x12), (0x1234, 0x5E)]) 4 4 (fun t => t.a = 0x5E ∧ t.pc = 0x0001) := by
  decide +kernel

/-- The start state of vector S2. -/
def beforeReset : State :=
  { program 0x5555 [] [(0xFFFC, 0x34), (0xFFFD, 0x12)] with a := 0x11, x := 0x22, y := 0x33, sp := 0x44, p := 0xE7 }

/-- Vector S2: what the reset transaction leaves, and its two reads. -/
theorem test_reset_S2 :
    beforeReset.resetTransaction.observe =
      { a := 0x00, x := 0x00, y := 0x00, sp := 0xFD, pc := 0x1234, p := 0x24, cycles := 0 } ∧
    beforeReset.resetTransaction.bus = [.read 0xFFFC 0x34, .read 0xFFFD 0x12] ∧
    beforeReset.resetTransaction.mem = beforeReset.mem := by
  decide +kernel

/-- The access order 95_test_vectors.md section 3 gives for JSR, at 0x0600 so that the two bytes pushed differ (R172). -/
theorem test_access_order_jsr :
    stepGives (program 0x0600 [0x20, 0x00, 0x07] []) (fun t => t.bus =
      [.read 0x0600 0x20, .read 0x0601 0x00, .read 0x0602 0x07, .write 0x01FD 0x06, .write 0x01FC 0x02]) = true := by
  decide +kernel

/-- The word placed where the next step fetches is what the next step runs. -/
theorem test_withFetchWord :
    step (State.reset.withFetchWord 8 0xA9) =
      exec (.lda (.imm 0x00))
        { State.reset.withFetchWord 8 0xA9 with bus := [.read 0x0000 0xA9, .read 0x0001 0x00], portSeq := 4 } := rfl

/-- The same where the port is not plain RAM at PC: the placed instruction runs. -/
theorem test_withFetchWord_open :
    stepGives (({ State.reset with cfg := openPort, pc := 0x3FFE } : State).withFetchWord 8 0xE8)
      (fun t => t.x = 0x01 ∧ t.pc = 0x3FFF) = true := by
  decide +kernel

/-- R41: a read where the port is not plain RAM answers the free value of its access. -/
theorem test_open_read :
    step { program 0x0200 [0xAD, 0x02, 0x20] [] with cfg := openPort } =
      exec (.lda (.abs 0x2002))
        { program 0x0200 [0xAD, 0x02, 0x20] [] with
          cfg := openPort, portSeq := 3, bus := [.read 0x0200 0xAD, .read 0x0201 0x02, .read 0x0202 0x20] } ∧
    value (.abs 0x2002) { program 0x0200 [] [] with cfg := openPort, portSeq := 3 } = Config.portByte 3 0x2002 :=
  ⟨rfl, rfl⟩

/-! Witnesses: a concrete state and operands that meet the hypotheses of each statement that has any, all together. -/

/-- The outcome is a next state. -/
def completes (o : Host.Outcome State Fault Refusal) : Bool :=
  match o with
  | .next _    => true
  | .fault _   => false
  | .refused _ => false

theorem next_of_completes {o : Host.Outcome State Fault Refusal} (h : completes o = true) : ∃ t, o = .next t := by
  cases o with
  | next t    => exact ⟨t, rfl⟩
  | fault r   => cases h
  | refused r => cases h

/-- A port of plain RAM (D26). -/
theorem plainRam {s : State} (h : s.cfg.openRegions = []) : PlainRam s := fun a => by simp [openAt, h]

theorem witness_DecodeOfEncode :
    (Instr.ror (.mem (.absX 0xFFFF))).wellFormed = true ∧ (Instr.ill 0xFF).wellFormed = true := by decide +kernel

theorem witness_EncodeOfDecode : decode [0x6C, 0xFF, 0x02, 0xEA] = .ok (.jmp (.ind 0x02FF), [0xEA]) := rfl

/-- Both clauses, at the first and the last illegal byte and beside them. -/
theorem witness_IllegalOpcodes :
    illegalBytes.contains (0x02#8).toNat = true ∧ illegalBytes.contains (0xFF#8).toNat = true ∧
    illegalBytes.contains (0x00#8).toNat = false ∧ illegalBytes.contains (0xFE#8).toNat = false := by decide +kernel

/-- An instruction whose bytes wrap past 0xFFFF. -/
theorem witness_StepRunsDecoded :
    decode [0xAD, 0x34, 0x12] = .ok (.lda (.abs 0x1234), []) ∧
    Answers (program 0xFFFE [0xAD, 0x34, 0x12] []) 0 0xFFFE [0xAD, 0x34, 0x12] :=
  ⟨rfl, rfl, rfl, rfl, trivial⟩

theorem witness_StepCompletes : State.reset.cfg.illegalPolicy = .nop := rfl

/-- Both clauses. -/
theorem witness_RefusePolicy :
    let legal := { program 0x0200 [0xEA] [] with cfg := { Config.standard with illegalPolicy := .refuse } }
    let illegal := { program 0x0200 [0x02] [] with cfg := { Config.standard with illegalPolicy := .refuse } }
    (legal.cfg.illegalPolicy = .refuse ∧ illegalBytes.contains (legal.answer legal.pc).toNat = false) ∧
    (illegal.cfg.illegalPolicy = .refuse ∧ illegalBytes.contains (illegal.answer illegal.pc).toNat = true) := by
  decide +kernel

/-- A step that completes: the hypothesis of O10, O11 and O12, under either cycle model. -/
theorem witness_completed_step :
    (∃ t, step (program 0x0200 [0xB1, 0xFF] []) = .next t) ∧
    ∃ t, step { program 0x0200 [0xB1, 0xFF] [] with cfg := { Config.standard with cycleModel := .accessCount } } = .next t :=
  ⟨next_of_completes (by decide +kernel), next_of_completes (by decide +kernel)⟩

theorem witness_CostOfEveryInstruction : ∃ t, exec (.lda (.absX 0x03FF)) { State.reset with x := 0x01 } = .next t :=
  ⟨_, rfl⟩

/-- In a state whose bits 4 and 5 of P are those of `P_RESET = 0x34`, and in the reset state. -/
theorem witness_StepKeepsInv :
    let s := { program 0x0200 [0x28] [(0x01FE, 0xFF)] with p := 0x34, cfg := { Config.standard with pReset := .p34 } }
    (Inv s ∧ ∃ t, step s = .next t) ∧ (Inv State.reset ∧ ∃ t, step State.reset = .next t) :=
  ⟨⟨by decide +kernel, next_of_completes (by decide +kernel)⟩,
    ⟨by decide +kernel, next_of_completes (by decide +kernel)⟩⟩

/-- Power-on, a reset, and a write by another agent. -/
theorem witness_ReachableInv :
    Reachable (State.powerOn .standard) ∧ Reachable State.reset ∧
    Reachable { State.reset with mem := [(0xFFFF, 0x80)] } := by
  have on : Reachable (State.powerOn .standard) := .powerOn _ (by decide)
  have reset : Reachable State.reset := .transact .reset on rfl
  exact ⟨on, reset, .transact (.portWrite 0xFFFF 0x80) reset rfl⟩

theorem witness_ParametersFixed :
    (∃ t, transact .reset State.reset = .next t) ∧ (∃ t, transact .step State.reset = .next t) ∧
    ∃ t, transact (.portWrite 0x0000 0xEA) State.reset = .next t :=
  ⟨⟨_, rfl⟩, next_of_completes (by decide +kernel), ⟨_, rfl⟩⟩

/-- Both values of `P_RESET`: the clauses of O18 and O19. -/
theorem witness_P_RESET :
    Config.standard.pReset = .p24 ∧ ({ Config.standard with pReset := .p34 } : Config).pReset = .p34 := ⟨rfl, rfl⟩

/-- Two blocks with the same vector and different registers and memory. -/
theorem witness_ResetRepeats :
    let other := { beforeReset with a := 0xFF, portSeq := 9, mem := memWrite beforeReset.mem 0x0000 0x01 }
    PlainRam beforeReset ∧ other.cfg = beforeReset.cfg ∧
    memRead other.mem 0xFFFC = memRead beforeReset.mem 0xFFFC ∧
    memRead other.mem 0xFFFD = memRead beforeReset.mem 0xFFFD :=
  ⟨plainRam rfl, rfl, by decide +kernel, by decide +kernel⟩

/-- The hypothesis of O24, O25 and of the clauses on memory's bytes in O44, O46, O49, O53 and O54. -/
theorem witness_PlainRam : PlainRam State.reset := plainRam rfl

/-- The clauses of O26: an immediate operand; plain RAM beside the open region; both ends of the open region. -/
theorem witness_OperandValue :
    (∃ v, Operand.imm 0x01 = .imm v) ∧ (∀ v, Operand.abs 0x1FFF ≠ .imm v) ∧
    openAt openPort 0x1FFF = false ∧ openAt openPort 0x4000 = false ∧
    openAt openPort 0x2000 = true ∧ openAt openPort 0x3FFF = true :=
  ⟨⟨_, rfl⟩, nofun, by decide +kernel, by decide +kernel, by decide +kernel, by decide +kernel⟩

/-- The clauses of O34: the other carry and the same carry. -/
theorem witness_SbcUndoesAdc :
    let s := { State.reset with a := 0xF0 }
    ∃ t u u', exec (.adc (.imm 0x20)) s = .next t ∧
      (u.a = t.a ∧ value (.imm 0x20) u = value (.imm 0x20) s ∧ getFlag u.p .carry = !getFlag s.p .carry) ∧
      (u'.a = t.a ∧ value (.imm 0x20) u' = value (.imm 0x20) s ∧ getFlag u'.p .carry = getFlag s.p .carry) :=
  ⟨_, { State.reset with a := 0x10, p := 0x25 }, { State.reset with a := 0x10 }, rfl, ⟨rfl, rfl, rfl⟩, ⟨rfl, rfl, rfl⟩⟩

/-- A JSR whose two pushes wrap around the stack page, and a state after its subroutine. -/
theorem witness_RtsReturnsAfterJsr :
    let s := { State.reset with sp := 0x00, pc := 0xFFFE }
    ∃ t u, PlainRam s ∧ memWf s.mem = true ∧ exec (.jsr 0x0700) s = .next t ∧ SameStack t u ∧ u.a = 0x55 ∧ u.p = 0xE7 :=
  ⟨_, { ({ State.reset with sp := 0x00, pc := 0xFFFE }.pushWord 0x0000) with a := 0x55, p := 0xE7 },
    plainRam rfl, rfl, rfl, ⟨rfl, rfl, rfl⟩, rfl, rfl⟩

/-- A PHP at SP = 0x00, and a state after it in which the flags have changed. -/
theorem witness_PlpRestoresPhp :
    let s := { State.reset with sp := 0x00, p := 0xE7 }
    ∃ t u, PlainRam s ∧ memWf s.mem = true ∧ exec .php s = .next t ∧ SameStack t u ∧ u.p &&& 0x30 = s.p &&& 0x30 ∧
      u.p = 0x28 :=
  ⟨_, { ({ State.reset with sp := 0x00, p := 0xE7 }.push 0xF7) with p := 0x28 },
    plainRam rfl, rfl, rfl, ⟨rfl, rfl, rfl⟩, by decide +kernel, rfl⟩

/-- The clause on illegal opcodes, at the first and the last of them. -/
theorem witness_NopAndIllegalOnlyAdvance :
    illegalBytes.contains (0x02#8).toNat = true ∧ illegalBytes.contains (0xFF#8).toNat = true ∧
    State.reset.cfg.illegalPolicy = .nop := by decide +kernel

/-- A BRK at SP = 0x01, and a state of its handler. -/
theorem witness_RtiReturnsFromBrk :
    let s := { State.reset with sp := 0x01, p := 0x20, pc := 0xFFFF }
    ∃ t u, PlainRam s ∧ memWf s.mem = true ∧ exec .brk s = .next t ∧ SameStack t u ∧ u.p &&& 0x30 = s.p &&& 0x30 ∧
      u.x = 0x07 :=
  ⟨_, { ({ State.reset with sp := 0x01, p := 0x20, pc := 0xFFFF }.enterTrap 0x0001).2 with x := 0x07 },
    plainRam rfl, rfl, rfl, ⟨rfl, rfl, rfl⟩, by decide +kernel, rfl⟩

/-- Both clauses of O56. -/
theorem witness_DecimalFlagHasNoEffect :
    (Instr.adc (.imm 0x01) ≠ .php ∧ Instr.adc (.imm 0x01) ≠ .brk ∧ writesDecimal (.adc (.imm 0x01)) = false) ∧
    (Instr.plp ≠ .php ∧ Instr.plp ≠ .brk ∧ writesDecimal .plp = true) := by decide

/-- NOP meets every clause of O58, O59 and O60. -/
theorem witness_writers :
    (∃ t, exec .nop State.reset = .next t) ∧
    (writesCarry .nop = false ∧ writesZeroNegative .nop = false ∧ writesInterruptDisable .nop = false ∧
      writesDecimal .nop = false ∧ writesOverflow .nop = false) ∧
    (writesA .nop = false ∧ writesX .nop = false ∧ writesY .nop = false ∧ writesSP .nop = false ∧
      writesPC .nop = false) ∧ writesMemory .nop = false :=
  ⟨⟨_, rfl⟩, by decide, by decide, rfl⟩

/-- The accumulator form of a shift writes A and no memory, the other form the other way round. -/
theorem witness_shift_forms :
    writesA (.asl (.mem (.zp 0x10))) = false ∧ writesMemory (.asl .acc) = false ∧
    (∃ t, exec (.asl (.mem (.zp 0x10))) State.reset = .next t) ∧ ∃ t, exec (.asl .acc) State.reset = .next t :=
  ⟨rfl, rfl, ⟨_, rfl⟩, ⟨_, rfl⟩⟩

/-- Canonical memory, the hypothesis of `Stored` in O28, O38, O40, O41, O45, O48 and O53. -/
theorem witness_Stored : memWf State.reset.mem = true ∧ memWf [(0x0000, 0x01), (0xFFFF, 0x80)] = true := by decide +kernel

end Sys2Proof.Tests
end

/-! PROOFS for 00_scope.md: O8 and O17. One lemma says what an instruction can do to the parameters and when it is
refused; the step and the transactions follow from it. -/
namespace Sys2Proof.Machine

/-! The shapes of instructions whose register effect is an argument keep the parameters if that effect does. -/

theorem readInstr_cfg (o : Operand) {f : Byte → State → State} (keeps : ∀ m t, (f m t).cfg = t.cfg) (s : State) :
    (readInstr o f s).cfg = s.cfg := by
  rw [readInstr_eq, State.retire_cfg, keeps, loadOperand_cfg]

theorem impliedInstr_cfg {f : State → State} (keeps : ∀ t, (f t).cfg = t.cfg) (s : State) :
    (impliedInstr f s).cfg = s.cfg :=
  keeps s

theorem modifyInstr_cfg (o : ShiftOperand) (f : Byte → Byte → Byte × Byte) (s : State) :
    (modifyInstr o f s).cfg = s.cfg := by
  cases o with
  | acc => exact modifyAccumulator_cfg f s
  | mem o => exact modifyMemory_cfg o f s

theorem OnlyReads.cfg_eq {s t : State} (h : OnlyReads s t) : t.cfg = s.cfg := by
  obtain ⟨_, rfl⟩ := h
  rfl

theorem State.fetch_cfg (s : State) : s.fetch.2.cfg = s.cfg := s.fetch_onlyReads.cfg_eq

/-- The outcomes of an instruction (R9): it completes with the parameters it found, or it is an illegal opcode, refused
under `ILLEGAL_OPCODE_POLICY = REFUSE` (R195). -/
theorem exec_cases (i : Instr) (s : State) :
    (∃ t, exec i s = .next t ∧ t.cfg = s.cfg) ∨
    ∃ op, i = .ill op ∧ s.cfg.illegalPolicy = .refuse ∧ exec i s = .refused (.illegalOpcode op) := by
  cases i with
  | ill op =>
    cases policy : s.cfg.illegalPolicy with
    | nop => exact .inl ⟨s.retire (s.nextPC .implied) .illegal .implied 0, by simp [exec, execIll, policy], rfl⟩
    | refuse => exact .inr ⟨op, rfl, rfl, by simp [exec, execIll, policy]⟩
  | adc o | and o | bit o | cmp o | cpx o | cpy o | eor o | lda o | ldx o | ldy o | ora o | sbc o =>
    exact .inl ⟨_, rfl, readInstr_cfg o (fun _ _ => rfl) s⟩
  | sta o | stx o | sty o => exact .inl ⟨_, rfl, storeInstr_cfg o _ s⟩
  | inc o | dec o => exact .inl ⟨_, rfl, modifyMemory_cfg o _ s⟩
  | asl o | lsr o | rol o | ror o => exact .inl ⟨_, rfl, modifyInstr_cfg o _ s⟩
  | bcc d | bcs d | beq d | bmi d | bne d | bpl d | bvc d | bvs d => exact .inl ⟨_, rfl, branchInstr_cfg _ d s⟩
  | clc | cld | cli | clv | sec | sed | sei | dex | dey | inx | iny | nop | tax | tay | tsx | txa | txs | tya =>
    exact .inl ⟨_, rfl, impliedInstr_cfg (fun _ => rfl) s⟩
  | jmp o => cases o <;> exact .inl ⟨_, rfl, rfl⟩
  | jsr _ | rts | brk | rti | pha | php | pla | plp => exact .inl ⟨_, rfl, by simp⟩

/-- The outcomes of a step: those of the instruction fetched, under the parameters before the fetch. -/
theorem step_cases (s : State) :
    (∃ t, step s = .next t ∧ t.cfg = s.cfg) ∨
    ∃ op, s.fetch.1 = .ill op ∧ s.cfg.illegalPolicy = .refuse ∧ step s = .refused (.illegalOpcode op) := by
  rw [← s.fetch_cfg]
  exact exec_cases s.fetch.1 s.fetch.2

theorem step_completes_of_nop {s : State} (policy : s.cfg.illegalPolicy = .nop) : ∃ t, step s = .next t := by
  obtain ⟨t, next, -⟩ | ⟨_, -, refuse, -⟩ := step_cases s
  · exact ⟨t, next⟩
  · simp [policy] at refuse

theorem step_cfg {s t : State} (h : step s = .next t) : t.cfg = s.cfg := by
  obtain ⟨u, next, cfg⟩ | ⟨_, -, -, refused⟩ := step_cases s
  · cases next.symm.trans h
    exact cfg
  · cases refused.symm.trans h

theorem State.resetTransaction_cfg (s : State) : s.resetTransaction.cfg = s.cfg := rfl

/-- Settles O8: an instruction is refused under `REFUSE` alone, and `Fault` has no value a step could answer. -/
theorem stepCompletes : Obligations.StepCompletes :=
  ⟨fun _ fault => (nomatch fault), fun _ policy => step_completes_of_nop policy⟩

/-- Settles O17, transaction by transaction. -/
theorem parametersFixed : Obligations.ParametersFixed := by
  intro tr s t h
  cases tr with
  | reset =>
    cases h
    exact s.resetTransaction_cfg
  | step => exact step_cfg h
  | portWrite a v =>
    cases h
    rfl

end Sys2Proof.Machine

/-! PROOFS for 10_state.md: O14 to O16, O18, O21, O56, O58 and O59. What an instruction may do is said once:
`exec_retires` breaks the meaning of every instruction that completes into register writes, flag writes and accesses, each
only where the rules let that instruction make it, and the end of the step. The frames of the flags and registers, the
invariant and its bounds follow from it. O56 is about two runs and has its own case split. -/
namespace Sys2Proof.Machine

open Sys2Proof.Claims

/-! The flags an instruction may write. -/

/-- The instruction is a writer of the flag (R29 to R34). -/
def writesFlag (i : Instr) : Flag → Bool
  | .carry            => writesCarry i
  | .zero | .negative => writesZeroNegative i
  | .interruptDisable => writesInterruptDisable i
  | .decimal          => writesDecimal i
  | .overflow         => writesOverflow i

/-- From status `p` to status `q` no flag has changed that is not the instruction's to write, and bits 4 and 5 have not
changed at all (R26, R28). -/
def StatusKept (i : Instr) (p q : Byte) : Prop :=
  (∀ f, writesFlag i f = false → getFlag q f = getFlag p f) ∧ q &&& 0x30#8 = p &&& 0x30#8

theorem StatusKept.refl (i : Instr) (p : Byte) : StatusKept i p p := ⟨fun _ _ => rfl, rfl⟩

theorem StatusKept.trans {i : Instr} {p q r : Byte} (h : StatusKept i p q) (h' : StatusKept i q r) : StatusKept i p r :=
  ⟨fun f w => (h'.1 f w).trans (h.1 f w), h'.2.trans h.2⟩

theorem statusKept_setFlag {i : Instr} {f : Flag} (w : writesFlag i f = true) (p : Byte) (b : Bool) :
    StatusKept i p (setFlag p f b) := by
  refine ⟨fun g kept => getFlag_setFlag_other p b ?_, reserved_setFlag p f b⟩
  rintro rfl
  simp [w] at kept

theorem statusKept_setNZ {i : Instr} (nz : writesZeroNegative i = true) (p v : Byte) : StatusKept i p (setNZ p v) :=
  (statusKept_setFlag (f := .zero) nz p _).trans (statusKept_setFlag (f := .negative) nz _ _)

theorem statusKept_arithmeticFlags {i : Instr} (c : writesCarry i = true) (v : writesOverflow i = true)
    (nz : writesZeroNegative i = true) (p : Byte) (r : AluResult) : StatusKept i p (arithmeticFlags p r) :=
  ((statusKept_setFlag (f := .carry) c p _).trans (statusKept_setFlag (f := .overflow) v _ _)).trans
    (statusKept_setNZ nz _ _)

theorem statusKept_compareFlags {i : Instr} (c : writesCarry i = true) (nz : writesZeroNegative i = true) (p a b : Byte) :
    StatusKept i p (compareFlags p a b) :=
  (statusKept_setFlag (f := .carry) c p _).trans (statusKept_setNZ nz _ _)

theorem statusKept_bitTestFlags {i : Instr} (v : writesOverflow i = true) (nz : writesZeroNegative i = true)
    (p a b : Byte) : StatusKept i p (bitTestFlags p a b) :=
  ((statusKept_setFlag (f := .zero) nz p _).trans (statusKept_setFlag (f := .negative) nz _ _)).trans
    (statusKept_setFlag (f := .overflow) v _ _)

theorem statusKept_shiftFlags {i : Instr} (c : writesCarry i = true) (nz : writesZeroNegative i = true) (p : Byte)
    (r : ShiftResult) : StatusKept i p (shiftFlags p r) :=
  (statusKept_setFlag (f := .carry) c p _).trans (statusKept_setNZ nz _ _)

theorem statusKept_pulledStatus {i : Instr} (all : ∀ f, writesFlag i f = true) (p v : Byte) :
    StatusKept i p (pulledStatus p v) :=
  ⟨fun f kept => by simp [all f] at kept, reserved_pulledStatus p v⟩

/-! What an instruction does before it ends its step. -/

/-- `Performs i s n t`: from `s`, register writes, flag writes and `n` accesses of the Memory Port have led to `t`, and
each register, flag or byte of memory written is the instruction's to write. -/
inductive Performs (i : Instr) (s : State) : Nat → State → Prop where
  | start : Performs i s 0 s
  | setA {n t} (h : Performs i s n t) (w : writesA i = true) (v : Byte) : Performs i s n (t.setA v)
  | setX {n t} (h : Performs i s n t) (w : writesX i = true) (v : Byte) : Performs i s n (t.setX v)
  | setY {n t} (h : Performs i s n t) (w : writesY i = true) (v : Byte) : Performs i s n (t.setY v)
  | setSP {n t} (h : Performs i s n t) (w : writesSP i = true) (v : Byte) : Performs i s n (t.setSP v)
  | setP {n t q} (h : Performs i s n t) (kept : StatusKept i t.p q) : Performs i s n (t.setP q)
  | read {n t} (h : Performs i s n t) (a : Word) : Performs i s (n + 1) (t.portRead a).2
  | write {n t} (h : Performs i s n t) (w : writesMemory i = true) (a : Word) (v : Byte) :
      Performs i s (n + 1) (t.portWrite a v)

/-- A, X, Y and SP are unchanged unless the instruction is one of their writers (R21 to R23). -/
structure RegisterFrame (i : Instr) (s t : State) : Prop where
  a  : writesA i = false → t.a = s.a
  x  : writesX i = false → t.x = s.x
  y  : writesY i = false → t.y = s.y
  sp : writesSP i = false → t.sp = s.sp

namespace Performs

variable {i : Instr} {s t : State} {n : Nat}

theorem withNZ (h : Performs i s n t) (nz : writesZeroNegative i = true) (v : Byte) : Performs i s n (t.withNZ v) :=
  h.setP (statusKept_setNZ nz t.p v)

theorem withFlag (h : Performs i s n t) {f : Flag} (w : writesFlag i f = true) (b : Bool) :
    Performs i s n (t.withFlag f b) :=
  h.setP (statusKept_setFlag w t.p b)

theorem readWord (h : Performs i s n t) (lo hi : Word) : Performs i s (n + 2) (t.portReadWord lo hi).2 :=
  (h.read lo).read hi

theorem push (h : Performs i s n t) (sp : writesSP i = true) (mem : writesMemory i = true) (v : Byte) :
    Performs i s (n + 1) (t.push v) :=
  (h.write mem _ v).setSP sp _

theorem pull (h : Performs i s n t) (sp : writesSP i = true) : Performs i s (n + 1) t.pull.2 :=
  (h.setSP sp _).read _

theorem pushWord (h : Performs i s n t) (sp : writesSP i = true) (mem : writesMemory i = true) (w : Word) :
    Performs i s (n + 2) (t.pushWord w) :=
  (h.push sp mem _).push sp mem _

theorem pullWord (h : Performs i s n t) (sp : writesSP i = true) : Performs i s (n + 2) t.pullWord.2 :=
  (h.pull sp).pull sp

/-! What stays, or grows, on the way. -/

theorem statusKept (h : Performs i s n t) : StatusKept i s.p t.p := by
  induction h with
  | start => exact .refl i s.p
  | setP _ kept ih => exact ih.trans kept
  | _ => assumption

theorem registerFrame (h : Performs i s n t) : RegisterFrame i s t := by
  induction h with
  | start => exact ⟨fun _ => rfl, fun _ => rfl, fun _ => rfl, fun _ => rfl⟩
  | setA _ w _ ih => exact { ih with a := fun kept => by simp [w] at kept }
  | setX _ w _ ih => exact { ih with x := fun kept => by simp [w] at kept }
  | setY _ w _ ih => exact { ih with y := fun kept => by simp [w] at kept }
  | setSP _ w _ ih => exact { ih with sp := fun kept => by simp [w] at kept }
  | setP _ _ ih | read _ _ ih | write _ _ _ _ ih => exact { ih with }

theorem bus_length (h : Performs i s n t) : t.bus.length = s.bus.length + n := by
  induction h with
  | start => rfl
  | read _ a ih => simp [ih, Nat.add_assoc]
  | write _ _ a v ih => simp [ih, Nat.add_assoc]
  | _ => assumption

theorem memWf_mem (h : Performs i s n t) (canonical : memWf s.mem = true) : memWf t.mem = true := by
  induction h with
  | start => exact canonical
  | write _ _ a v ih => exact memWf_memWrite_word a v ih
  | _ => assumption

end Performs

theorem resolve_performs (i : Instr) (o : Operand) (s : State) :
    Performs i s (pointerReads o) (resolve o s).state := by
  cases o with
  | indX z | indY z => exact Performs.start.readWord _ _
  | _ => exact .start

theorem loadOperand_performs (i : Instr) (o : Operand) (s : State) :
    Performs i s (dataReads o) (loadOperand o s).state := by
  cases o with
  | imm v => exact .start
  | _ => exact (resolve_performs i _ s).read _

theorem enterTrap_performs {i : Instr} (sp : writesSP i = true) (mem : writesMemory i = true)
    (disable : writesFlag i .interruptDisable = true) (s : State) (r : Word) :
    Performs i s 5 (s.enterTrap r).2 :=
  (((Performs.start.pushWord sp mem r).push sp mem _).withFlag disable true).readWord _ _

theorem leaveTrap_performs {i : Instr} (sp : writesSP i = true) (all : ∀ f, writesFlag i f = true) (s : State) :
    Performs i s 3 s.leaveTrap.2 :=
  ((Performs.start.pull sp).setP (statusKept_pulledStatus all s.p _)).pullWord sp

/-! What every instruction does. -/

/-- The accesses of a shift or rotate (R154). -/
def shiftAccesses : ShiftOperand → Nat
  | .acc   => 0
  | .mem o => pointerReads o + 2

/-- The accesses of an instruction after its own bytes have been fetched (R97). -/
def dataAccesses : Instr → Nat
  | .adc o | .and o | .bit o | .cmp o | .cpx o | .cpy o | .eor o | .lda o | .ldx o | .ldy o | .ora o | .sbc o =>
    dataReads o
  | .sta o | .stx o | .sty o => pointerReads o + 1
  | .inc o | .dec o => pointerReads o + 2
  | .asl o | .lsr o | .rol o | .ror o => shiftAccesses o
  | .pha | .php | .pla | .plp => 1
  | .jmp (.ind _) | .jsr _ | .rts => 2
  | .rti => 3
  | .brk => 5
  | _ => 0

/-- The largest penalty of a penalty class (R93, R94). -/
def maxPenalty : Penalty → Nat
  | .none      => 0
  | .pageCross => 1
  | .branch    => 2

theorem pagePenalty_le (c : CostClass) (m : Mode) (crossed : Bool) :
    pagePenalty c m crossed ≤ maxPenalty (penaltyClass c m) := by
  unfold pagePenalty
  split
  · rename_i h; simp [h.1, maxPenalty]
  · exact Nat.zero_le _

theorem branchPenalty_le (taken : Bool) (target next : Word) : branchPenalty taken target next ≤ 2 := by
  unfold branchPenalty
  split
  · split <;> decide
  · decide

/-- From `s` the instruction performs what its rule lets it, with `n` accesses, and ends its step in `t` with the cost of
class `c` and mode `m` and a penalty they allow; PC goes to nextPC unless the instruction writes it. -/
def Retires (i : Instr) (n : Nat) (c : CostClass) (m : Mode) (s t : State) : Prop :=
  ∃ u pc penalty, Performs i s n u ∧ t = u.retire pc c m penalty ∧ penalty ≤ maxPenalty (penaltyClass c m) ∧
    (writesPC i = false → pc = s.nextPC m)

section Shapes

variable {i : Instr} {s u : State} {n : Nat}

/-- A step without a penalty after which PC advances. -/
theorem Performs.retires (h : Performs i s n u) (c : CostClass) (m : Mode) :
    Retires i n c m s (u.retire (s.nextPC m) c m 0) :=
  ⟨u, _, 0, h, rfl, Nat.zero_le _, fun _ => rfl⟩

/-- A step without a penalty of an instruction that writes PC. -/
theorem Performs.retiresAt (h : Performs i s n u) (w : writesPC i = true) (pc : Word) (c : CostClass) (m : Mode) :
    Retires i n c m s (u.retire pc c m 0) :=
  ⟨u, pc, 0, h, rfl, Nat.zero_le _, fun kept => by simp [w] at kept⟩

theorem readInstr_retires {o : Operand} {f : Byte → State → State}
    (effect : ∀ v {t}, Performs i s (dataReads o) t → Performs i s (dataReads o) (f v t)) :
    Retires i (dataReads o) .read o.mode s (readInstr o f s) :=
  ⟨_, _, _, effect _ (loadOperand_performs i o s), rfl, pagePenalty_le _ _ _, fun _ => rfl⟩

theorem storeInstr_retires (w : writesMemory i = true) (o : Operand) (v : Byte) :
    Retires i (pointerReads o + 1) .write o.mode s (storeInstr o v s) :=
  ⟨_, _, _, (resolve_performs i o s).write w _ v, rfl, pagePenalty_le _ _ _, fun _ => rfl⟩

theorem modifyMemory_retires {f : Byte → Byte → Byte × Byte} (w : writesMemory i = true) (o : Operand)
    (kept : ∀ v, StatusKept i s.p (f v s.p).2) :
    Retires i (pointerReads o + 2) .readModifyWrite o.mode s (modifyMemory o f s) := by
  have stored := ((resolve_performs i o s).read (resolve o s).ea).write w (resolve o s).ea
    (f ((resolve o s).state.answer (resolve o s).ea) s.p).1
  refine ⟨_, _, _, stored.setP ?_, rfl, pagePenalty_le _ _ _, fun _ => rfl⟩
  rw [State.portWrite_p, State.portRead_p, resolve_p]
  exact kept _

theorem modifyAccumulator_retires {f : Byte → Byte → Byte × Byte} (w : writesA i = true)
    (kept : ∀ v, StatusKept i s.p (f v s.p).2) :
    Retires i 0 .readModifyWrite .accumulator s (modifyAccumulator f s) :=
  ((Performs.start.setA w (f s.a s.p).1).setP (kept s.a)).retires _ _

theorem modifyInstr_retires {o : ShiftOperand} {f : Byte → Byte → Byte × Byte} (a : writesA i = onAccumulator o)
    (mem : writesMemory i = !onAccumulator o) (kept : ∀ v, StatusKept i s.p (f v s.p).2) :
    Retires i (shiftAccesses o) .readModifyWrite o.mode s (modifyInstr o f s) := by
  cases o with
  | acc => exact modifyAccumulator_retires a kept
  | mem o => exact modifyMemory_retires mem o kept

theorem impliedInstr_retires {f : State → State} (effect : Performs i s 0 (f s)) :
    Retires i 0 .otherImplied .implied s (impliedInstr f s) :=
  effect.retires _ _

theorem branchInstr_retires (w : writesPC i = true) (taken : Bool) (d : Byte) :
    Retires i 0 .branch .relative s (branchInstr taken d s) :=
  ⟨s, _, _, .start, rfl, branchPenalty_le _ _ _, fun kept => by simp [w] at kept⟩

end Shapes

/-- What an instruction can do: it performs what the rules list for it, with its number of accesses, and retires with its
class and mode, unless it is refused. -/
theorem exec_retires_or_refuses (i : Instr) (s : State) :
    (∃ t, exec i s = .next t ∧ Retires i (dataAccesses i) (costClass i) i.mode s t) ∨ ∃ r, exec i s = .refused r := by
  cases i with
  | adc o | sbc o =>
    exact .inl ⟨_, rfl, readInstr_retires fun _ _ run =>
      (run.setA rfl _).setP (statusKept_arithmeticFlags rfl rfl rfl _ _)⟩
  | and o | ora o | eor o | lda o =>
    exact .inl ⟨_, rfl, readInstr_retires fun _ _ run => (run.setA rfl _).withNZ rfl _⟩
  | ldx o => exact .inl ⟨_, rfl, readInstr_retires fun _ _ run => (run.setX rfl _).withNZ rfl _⟩
  | ldy o => exact .inl ⟨_, rfl, readInstr_retires fun _ _ run => (run.setY rfl _).withNZ rfl _⟩
  | cmp o | cpx o | cpy o =>
    exact .inl ⟨_, rfl, readInstr_retires fun _ _ run => run.setP (statusKept_compareFlags rfl rfl _ _ _)⟩
  | bit o => exact .inl ⟨_, rfl, readInstr_retires fun _ _ run => run.setP (statusKept_bitTestFlags rfl rfl _ _ _)⟩
  | sta o | stx o | sty o => exact .inl ⟨_, rfl, storeInstr_retires rfl o _⟩
  | inc o | dec o => exact .inl ⟨_, rfl, modifyMemory_retires rfl o fun _ => statusKept_setNZ rfl _ _⟩
  | asl o | lsr o | rol o | ror o =>
    exact .inl ⟨_, rfl, modifyInstr_retires rfl rfl fun _ => statusKept_shiftFlags rfl rfl _ _⟩
  | inx | dex | tax | tsx => exact .inl ⟨_, rfl, impliedInstr_retires ((Performs.start.setX rfl _).withNZ rfl _)⟩
  | iny | dey | tay => exact .inl ⟨_, rfl, impliedInstr_retires ((Performs.start.setY rfl _).withNZ rfl _)⟩
  | txa | tya => exact .inl ⟨_, rfl, impliedInstr_retires ((Performs.start.setA rfl _).withNZ rfl _)⟩
  | txs => exact .inl ⟨_, rfl, impliedInstr_retires (Performs.start.setSP rfl _)⟩
  | clc | cld | cli | clv | sec | sed | sei =>
    exact .inl ⟨_, rfl, impliedInstr_retires (Performs.start.withFlag rfl _)⟩
  | nop => exact .inl ⟨_, rfl, impliedInstr_retires .start⟩
  | bcc d | bcs d | beq d | bmi d | bne d | bpl d | bvc d | bvs d => exact .inl ⟨_, rfl, branchInstr_retires rfl _ d⟩
  | jmp o =>
    cases o with
    | abs a => exact .inl ⟨_, rfl, Performs.start.retiresAt rfl _ _ _⟩
    | ind p => exact .inl ⟨_, rfl, (Performs.start.readWord _ _).retiresAt rfl _ _ _⟩
  | jsr a => exact .inl ⟨_, rfl, (Performs.start.pushWord rfl rfl _).retiresAt rfl _ _ _⟩
  | rts => exact .inl ⟨_, rfl, (Performs.start.pullWord rfl).retiresAt rfl _ _ _⟩
  | brk => exact .inl ⟨_, rfl, (enterTrap_performs rfl rfl rfl s _).retiresAt rfl _ _ _⟩
  | rti => exact .inl ⟨_, rfl, (leaveTrap_performs rfl (fun f => by cases f <;> rfl) s).retiresAt rfl _ _ _⟩
  | pha | php => exact .inl ⟨_, rfl, (Performs.start.push rfl rfl _).retires _ _⟩
  | pla => exact .inl ⟨_, rfl, (((Performs.start.pull rfl).setA rfl _).withNZ rfl _).retires _ _⟩
  | plp =>
    exact .inl ⟨_, rfl, ((Performs.start.pull rfl).setP
      (statusKept_pulledStatus (fun f => by cases f <;> rfl) _ _)).retires _ _⟩
  | ill op =>
    cases policy : s.cfg.illegalPolicy with
    | nop => exact .inl ⟨s.retire (s.nextPC .implied) .illegal .implied 0, by simp only [exec, execIll, policy],
        Performs.start.retires _ _⟩
    | refuse => exact .inr ⟨.illegalOpcode op, by simp only [exec, execIll, policy]⟩

theorem exec_retires {i : Instr} {s t : State} (h : exec i s = .next t) :
    Retires i (dataAccesses i) (costClass i) i.mode s t := by
  obtain ⟨u, next, retires⟩ | ⟨_, refused⟩ := exec_retires_or_refuses i s
  · cases next.symm.trans h
    exact retires
  · cases refused.symm.trans h

/-! The frames of an instruction. -/

namespace Retires

variable {i : Instr} {n : Nat} {c : CostClass} {m : Mode} {s t : State}

theorem statusKept (h : Retires i n c m s t) : StatusKept i s.p t.p := by
  obtain ⟨u, pc, penalty, run, rfl, -, -⟩ := h
  exact run.statusKept

theorem registerFrame (h : Retires i n c m s t) : RegisterFrame i s t := by
  obtain ⟨u, pc, penalty, run, rfl, -, -⟩ := h
  exact { run.registerFrame with }

theorem pc_eq (h : Retires i n c m s t) (kept : writesPC i = false) : t.pc = s.nextPC m := by
  obtain ⟨u, pc, penalty, -, rfl, -, next⟩ := h
  exact next kept

theorem memWf_mem (h : Retires i n c m s t) (canonical : memWf s.mem = true) : memWf t.mem = true := by
  obtain ⟨u, pc, penalty, run, rfl, -, -⟩ := h
  exact run.memWf_mem canonical

theorem bus_length (h : Retires i n c m s t) : t.bus.length = s.bus.length + n := by
  obtain ⟨u, pc, penalty, run, rfl, -, -⟩ := h
  exact run.bus_length

/-- The counter holds no more than the step costs, before the modulo of its width (R36). -/
theorem cycles_le (h : Retires i n c m s t) :
    t.cycles ≤ stepCost t.cfg.cycleModel (baseCost c m) t.bus.length (maxPenalty (penaltyClass c m)) := by
  obtain ⟨u, pc, penalty, -, rfl, le, -⟩ := h
  rw [State.retire_cycles, State.retire_cfg, State.retire_bus]
  refine (Nat.mod_le _ _).trans ?_
  unfold stepCost
  split
  · exact Nat.add_le_add_left le _
  · exact Nat.add_le_add_left le _

end Retires

theorem toNat_nextPC (s : State) (m : Mode) : (s.nextPC m).toNat = (s.pc.toNat + m.length) % 65536 := by
  simp [State.nextPC_eq]

/-- Settles O58: what an instruction performs changes no flag but those it writes. -/
theorem flagWriters : Obligations.FlagWriters := by
  intro i s t h
  obtain ⟨flags, reserved⟩ := (exec_retires h).statusKept
  exact ⟨flags .carry, fun kept => ⟨flags .zero kept, flags .negative kept⟩, flags .interruptDisable, flags .decimal,
    flags .overflow, reserved⟩

/-- Settles O59: what an instruction performs changes no register but those it writes, and it retires at nextPC. -/
theorem registerWriters : Obligations.RegisterWriters := by
  intro i s t h
  obtain ⟨a, x, y, sp⟩ := (exec_retires h).registerFrame
  refine ⟨a, x, y, sp, fun kept => ?_⟩
  rw [Advanced, (exec_retires h).pc_eq kept, toNat_nextPC, Instr.length]

/-! The bounds of a step (R96). -/

theorem read_accesses_le (o : Operand) :
    o.mode.length + dataReads o + maxPenalty (penaltyClass .read o.mode) ≤ 6 := by
  cases o <;> simp [Operand.mode, Mode.length, dataReads, pointerReads, penaltyClass, maxPenalty]

theorem store_accesses_le (o : Operand) :
    o.mode.length + (pointerReads o + 1) + maxPenalty (penaltyClass .write o.mode) ≤ 6 := by
  cases o <;> simp [Operand.mode, Mode.length, pointerReads, penaltyClass, maxPenalty]

theorem modify_accesses_le (o : Operand) :
    o.mode.length + (pointerReads o + 2) + maxPenalty (penaltyClass .readModifyWrite o.mode) ≤ 6 := by
  cases o <;> simp [Operand.mode, Mode.length, pointerReads, penaltyClass, maxPenalty]

theorem shift_accesses_le (o : ShiftOperand) :
    o.mode.length + shiftAccesses o + maxPenalty (penaltyClass .readModifyWrite o.mode) ≤ 6 := by
  cases o with
  | acc => decide
  | mem o => exact modify_accesses_le o

/-- No instruction makes more than 6 accesses, those for its own bytes and its penalty counted (R96). -/
theorem accesses_le (i : Instr) :
    i.length + dataAccesses i + maxPenalty (penaltyClass (costClass i) i.mode) ≤ 6 := by
  cases i with
  | adc o | and o | bit o | cmp o | cpx o | cpy o | eor o | lda o | ldx o | ldy o | ora o | sbc o =>
    exact read_accesses_le o
  | sta o | stx o | sty o => exact store_accesses_le o
  | inc o | dec o => exact modify_accesses_le o
  | asl o | lsr o | rol o | ror o => exact shift_accesses_le o
  | jmp o => cases o <;> exact Nat.le_of_ble_eq_true rfl
  | _ => exact Nat.le_of_ble_eq_true rfl

theorem baseCost_le (c : CostClass) (m : Mode) : baseCost c m + maxPenalty (penaltyClass c m) ≤ 7 := by
  cases c <;> cases m <;> decide

theorem step_bus_length {s t : State} (h : step s = .next t) :
    t.bus.length = s.fetch.1.length + dataAccesses s.fetch.1 := by
  rw [(exec_retires h).bus_length, s.fetch_bus.1]

/-- A step makes at most 6 accesses (R96). -/
theorem step_bus_length_le {s t : State} (h : step s = .next t) : t.bus.length ≤ 6 := by
  have := accesses_le s.fetch.1
  rw [step_bus_length h]
  omega

/-- The bound of R96 on the counter, under the cycle model of the step. -/
theorem step_cycles_le {s t : State} (h : step s = .next t) : t.cycles ≤ stepCost t.cfg.cycleModel 7 6 0 := by
  refine (exec_retires h).cycles_le.trans ?_
  have accesses := accesses_le s.fetch.1
  rw [step_bus_length h]
  cases t.cfg.cycleModel with
  | table => exact baseCost_le _ _
  | accessCount => exact accesses

theorem stepCost_bound_le (m : CycleModel) : stepCost m 7 6 0 ≤ 7 := by
  cases m <;> decide

theorem OnlyReads.mem_eq {s t : State} (h : OnlyReads s t) : t.mem = s.mem := by
  obtain ⟨_, rfl⟩ := h
  rfl

theorem OnlyReads.p_eq {s t : State} (h : OnlyReads s t) : t.p = s.p := by
  obtain ⟨_, rfl⟩ := h
  rfl

theorem State.fetch_mem (s : State) : s.fetch.2.mem = s.mem := s.fetch_onlyReads.mem_eq

theorem State.fetch_p (s : State) : s.fetch.2.p = s.p := s.fetch_onlyReads.p_eq

/-- Settles O14: what the step performs keeps memory canonical and bits 4 and 5 of P, and R96 bounds its accesses and its
cost. -/
theorem stepKeepsInv : Obligations.StepKeepsInv := by
  rintro s t ⟨canonical, width, -, -, reserved⟩ h
  have retires := exec_retires h
  refine ⟨retires.memWf_mem (s.fetch_mem ▸ canonical), step_cfg h ▸ width,
    (step_cycles_le h).trans (stepCost_bound_le _), step_bus_length_le h, ?_⟩
  rw [step_cfg h, ← reserved, ← s.fetch_p]
  exact retires.statusKept.2

/-! The other transactions. -/

theorem inv_powerOn {cfg : Config} (width : 3 ≤ cfg.counterWidth) : Inv (State.powerOn cfg) :=
  ⟨rfl, width, Nat.zero_le _, Nat.zero_le _, rfl⟩

theorem inv_resetTransaction {s : State} (h : Inv s) : Inv s.resetTransaction := by
  obtain ⟨canonical, width, -⟩ := h
  have bus : s.resetTransaction.bus.length = 2 := rfl
  exact ⟨canonical, width, Nat.zero_le _, by simp [bus], rfl⟩

theorem inv_transact {tr : Transaction} {s t : State} (before : Inv s) (h : transact tr s = .next t) : Inv t := by
  cases tr with
  | reset =>
    cases h
    exact inv_resetTransaction before
  | step => exact stepKeepsInv s t before h
  | portWrite a v =>
    cases h
    obtain ⟨canonical, rest⟩ := before
    exact ⟨memWf_memWrite_word a v canonical, rest⟩

/-- Settles O16, by induction on how the state was reached. -/
theorem reachableInv : Obligations.ReachableInv := by
  intro s reached
  induction reached with
  | powerOn cfg width => exact inv_powerOn width
  | transact tr _ h before => exact inv_transact before h

/-- Settles O18: the fields of `State.powerOn`. -/
theorem powerOnState : Obligations.PowerOnState := by
  intro cfg
  refine ⟨⟨rfl, rfl, rfl, rfl, rfl, rfl, rfl⟩, fun h => ?_, fun h => ?_⟩
  · exact congrArg PReset.value h
  · exact congrArg PReset.value h

/-- Settles O21: both vector bytes are unlisted in the empty memory of the block just built. -/
theorem resetState : Obligations.ResetState := rfl

/-- Settles O15: State.reset is the reset transaction of a block with the 8-bit counter of the standard parameters. -/
theorem resetInv : Obligations.ResetInv := by
  have reset : (State.powerOn .standard).resetTransaction = State.reset := Host.Outcome.next.inj resetState
  unfold Obligations.ResetInv
  rw [← reset]
  exact inv_resetTransaction (inv_powerOn (by decide))

/-! O56. Writing D commutes with everything an instruction does that neither reads nor writes D. -/

/-- Writes to two flags commute. -/
theorem setFlag_comm {f g : Flag} (ne : f ≠ g) (p : Byte) (b c : Bool) :
    setFlag (setFlag p f b) g c = setFlag (setFlag p g c) f b := by
  have bits : f.bit ≠ g.bit := fun e => ne (Flag.bit_injective e)
  refine status_ext fun k _ => ?_
  simp only [getLsbD_setFlag]
  by_cases hf : k = f.bit
  · have hg : k ≠ g.bit := fun hg => bits (hf.symm.trans hg)
    simp only [if_pos hf, if_neg hg]
  · simp only [if_neg hf]

theorem setFlag_setFlag_same (p : Byte) (f : Flag) (b c : Bool) : setFlag (setFlag p f b) f c = setFlag p f c := by
  refine status_ext fun k _ => ?_
  simp only [getLsbD_setFlag]
  split <;> rfl

/-- What is pulled does not depend on the flags before: bits 4 and 5 alone are kept. -/
theorem pulledStatus_setFlag (p v : Byte) (f : Flag) (b : Bool) : pulledStatus (setFlag p f b) v = pulledStatus p v :=
  congrArg (v &&& 0xCF ||| ·) (reserved_setFlag p f b)

section Decimal

variable (d : Bool) (p : Byte)

theorem setFlag_decimal {f : Flag} (ne : f ≠ .decimal) (b : Bool) :
    setFlag (setFlag p .decimal d) f b = setFlag (setFlag p f b) .decimal d :=
  setFlag_comm ne.symm p d b

theorem setNZ_decimal (v : Byte) : setNZ (setFlag p .decimal d) v = setFlag (setNZ p v) .decimal d := by
  rw [setNZ, setFlag_decimal d p (by decide), setFlag_decimal d _ (by decide), setNZ]

theorem arithmeticFlags_decimal (r : AluResult) :
    arithmeticFlags (setFlag p .decimal d) r = setFlag (arithmeticFlags p r) .decimal d := by
  rw [arithmeticFlags, setFlag_decimal d p (by decide), setFlag_decimal d _ (by decide), setNZ_decimal, arithmeticFlags]

theorem compareFlags_decimal (a b : Byte) :
    compareFlags (setFlag p .decimal d) a b = setFlag (compareFlags p a b) .decimal d := by
  rw [compareFlags, setFlag_decimal d p (by decide), setNZ_decimal, compareFlags]

theorem bitTestFlags_decimal (a b : Byte) :
    bitTestFlags (setFlag p .decimal d) a b = setFlag (bitTestFlags p a b) .decimal d := by
  rw [bitTestFlags, setFlag_decimal d p (by decide), setFlag_decimal d _ (by decide), setFlag_decimal d _ (by decide),
    bitTestFlags]

theorem shiftFlags_decimal (r : ShiftResult) :
    shiftFlags (setFlag p .decimal d) r = setFlag (shiftFlags p r) .decimal d := by
  rw [shiftFlags, setFlag_decimal d p (by decide), setNZ_decimal, shiftFlags]

theorem getFlag_decimal {f : Flag} (ne : f ≠ .decimal) : getFlag (setFlag p .decimal d) f = getFlag p f :=
  getFlag_setFlag_other p d ne

variable (s : State)

/-- No address depends on the status. -/
theorem resolve_withFlag (o : Operand) (f : Flag) (b : Bool) :
    resolve o (s.withFlag f b) = { resolve o s with state := (resolve o s).state.withFlag f b } := by
  cases o <;> rfl

theorem loadOperand_withFlag (o : Operand) (f : Flag) (b : Bool) :
    loadOperand o (s.withFlag f b) = { loadOperand o s with state := (loadOperand o s).state.withFlag f b } := by
  cases o <;> rfl

theorem readInstr_decimal (o : Operand) {f : Byte → State → State}
    (comm : ∀ v (t : State), f v (t.withFlag .decimal d) = (f v t).withFlag .decimal d) :
    readInstr o f (s.withFlag .decimal d) = (readInstr o f s).withFlag .decimal d := by
  rw [readInstr_eq, loadOperand_withFlag, comm]
  rfl

theorem storeInstr_decimal (o : Operand) (v : Byte) :
    storeInstr o v (s.withFlag .decimal d) = (storeInstr o v s).withFlag .decimal d := by
  rw [storeInstr, resolve_withFlag]
  rfl

theorem modifyMemory_decimal (o : Operand) {f : Byte → Byte → Byte × Byte}
    (comm : ∀ v p, f v (setFlag p .decimal d) = ((f v p).1, setFlag (f v p).2 .decimal d)) :
    modifyMemory o f (s.withFlag .decimal d) = (modifyMemory o f s).withFlag .decimal d := by
  rw [modifyMemory, resolve_withFlag, State.withFlag_p, comm]
  rfl

theorem modifyInstr_decimal (o : ShiftOperand) {f : Byte → Byte → Byte × Byte}
    (comm : ∀ v p, f v (setFlag p .decimal d) = ((f v p).1, setFlag (f v p).2 .decimal d)) :
    modifyInstr o f (s.withFlag .decimal d) = (modifyInstr o f s).withFlag .decimal d := by
  cases o with
  | acc =>
    rw [modifyInstr, modifyAccumulator, State.withFlag_p, comm]
    rfl
  | mem o => exact modifyMemory_decimal d s o comm

theorem impliedInstr_decimal {f : State → State} (comm : f (s.withFlag .decimal d) = (f s).withFlag .decimal d) :
    impliedInstr f (s.withFlag .decimal d) = (impliedInstr f s).withFlag .decimal d := by
  rw [impliedInstr, comm]
  rfl

theorem withNZ_decimal (v : Byte) : (s.withFlag .decimal d).withNZ v = (s.withNZ v).withFlag .decimal d := by
  rw [State.withNZ, State.withFlag_p, setNZ_decimal]
  rfl

theorem withFlag_decimal {f : Flag} (ne : f ≠ .decimal) (b : Bool) :
    (s.withFlag .decimal d).withFlag f b = (s.withFlag f b).withFlag .decimal d := by
  rw [State.withFlag, State.withFlag_p, setFlag_decimal d _ ne]
  rfl

theorem branchInstr_decimal {taken taken' : Bool} (same : taken' = taken) (e : Byte) :
    branchInstr taken' e (s.withFlag .decimal d) = (branchInstr taken e s).withFlag .decimal d := by
  rw [same]
  rfl

end Decimal

/-- An instruction that neither writes D nor pushes it does the same whatever D holds, and leaves D alone. -/
theorem exec_decimal {i : Instr} (php : i ≠ .php) (brk : i ≠ .brk) (kept : writesDecimal i = false) (d : Bool)
    (s : State) : exec i (s.withFlag .decimal d) = mapNext (fun t => t.withFlag .decimal d) (exec i s) := by
  cases i with
  | cld | sed | plp | rti => exact nomatch kept
  | php => exact absurd rfl php
  | brk => exact absurd rfl brk
  | adc o | sbc o =>
    refine congrArg Host.Outcome.next (readInstr_decimal d s o fun v t => ?_)
    have carry := getFlag_decimal d t.p (f := .carry) (by decide)
    simp only [State.withFlag_p, State.withFlag_a, carry, arithmeticFlags_decimal]
    rfl
  | and o | ora o | eor o | lda o =>
    exact congrArg Host.Outcome.next (readInstr_decimal d s o fun _ t => withNZ_decimal d (t.setA _) _)
  | ldx o => exact congrArg Host.Outcome.next (readInstr_decimal d s o fun _ t => withNZ_decimal d (t.setX _) _)
  | ldy o => exact congrArg Host.Outcome.next (readInstr_decimal d s o fun _ t => withNZ_decimal d (t.setY _) _)
  | cmp o | cpx o | cpy o =>
    exact congrArg Host.Outcome.next (readInstr_decimal d s o fun _ t => congrArg t.setP (compareFlags_decimal d _ _ _))
  | bit o =>
    exact congrArg Host.Outcome.next (readInstr_decimal d s o fun _ t => congrArg t.setP (bitTestFlags_decimal d _ _ _))
  | sta o | stx o | sty o => exact congrArg Host.Outcome.next (storeInstr_decimal d s o _)
  | inc o | dec o =>
    exact congrArg Host.Outcome.next (modifyMemory_decimal d s o fun _ p => congrArg (Prod.mk _) (setNZ_decimal d p _))
  | asl o | lsr o =>
    exact congrArg Host.Outcome.next (modifyInstr_decimal d s o fun _ p =>
      congrArg (Prod.mk _) (shiftFlags_decimal d p _))
  | rol o | ror o =>
    refine congrArg Host.Outcome.next (modifyInstr_decimal d s o fun v p => ?_)
    rw [getFlag_decimal d p (by decide), shifted, shiftFlags_decimal]
    rfl
  | bcs e | beq e | bmi e | bvs e =>
    exact congrArg Host.Outcome.next (branchInstr_decimal d s (getFlag_decimal d s.p (by decide)) e)
  | bcc e | bne e | bpl e | bvc e =>
    exact congrArg Host.Outcome.next (branchInstr_decimal d s (congrArg not (getFlag_decimal d s.p (by decide))) e)
  | inx | dex | tax | tsx =>
    exact congrArg Host.Outcome.next (impliedInstr_decimal d s (withNZ_decimal d (s.setX _) _))
  | iny | dey | tay => exact congrArg Host.Outcome.next (impliedInstr_decimal d s (withNZ_decimal d (s.setY _) _))
  | txa | tya => exact congrArg Host.Outcome.next (impliedInstr_decimal d s (withNZ_decimal d (s.setA _) _))
  | clc | cli | clv | sec | sei =>
    exact congrArg Host.Outcome.next (impliedInstr_decimal d s (withFlag_decimal d s (by decide) _))
  | pla =>
    exact congrArg (fun t : State => Host.Outcome.next (t.retire (s.nextPC .implied) .pull .implied 0))
      (withNZ_decimal d (s.pull.2.setA s.pull.1) s.pull.1)
  | jmp o => cases o <;> rfl
  | jsr _ | rts | pha | txs | nop => rfl
  | ill op =>
    cases policy : s.cfg.illegalPolicy with
    | nop =>
      simp only [exec, execIll, State.withFlag_cfg, policy, mapNext]
      rfl
    | refuse => simp only [exec, execIll, State.withFlag_cfg, policy, mapNext]

/-- A writer of D does the same whatever D held. -/
theorem exec_decimal_of_writes {i : Instr} (writes : writesDecimal i = true) (d : Bool) (s : State) :
    exec i (s.withFlag .decimal d) = exec i s := by
  cases i with
  | cld | sed =>
    exact congrArg (fun p => Host.Outcome.next (impliedInstr (fun t => t.setP p) s))
      (setFlag_setFlag_same s.p .decimal d _)
  | plp =>
    exact congrArg (fun p => Host.Outcome.next ((s.pull.2.setP p).retire (s.nextPC .implied) .pull .implied 0))
      (pulledStatus_setFlag s.p s.pull.1 .decimal d)
  | rti =>
    have same : (s.withFlag .decimal d).leaveTrap = s.leaveTrap :=
      congrArg (fun p => (s.pull.2.setP p).pullWord) (pulledStatus_setFlag s.p s.pull.1 .decimal d)
    simp only [exec, execRti, same]
  | _ => exact nomatch writes

/-- Settles O56: D enters no address, value or decision but the byte PHP and BRK push. -/
theorem decimalFlagHasNoEffect : Obligations.DecimalFlagHasNoEffect :=
  fun _ d s php brk => ⟨fun kept => exec_decimal php brk kept d s, fun writes => exec_decimal_of_writes writes d s⟩

end Sys2Proof.Machine

/-! PROOFS for 20_memory.md: O11, O26 and O60. The accesses of a step and the reads of an instruction that stores
nothing follow from `exec_retires`; the operand's byte follows from the law of `loadOperand`. -/
namespace Sys2Proof.Machine

open Sys2Proof.Claims

/-! O11. The decoder's rows against the rows of the column acc of R65. -/

/-- The accesses a completed step makes: one for each byte of the instruction (R76), then its own (R97). -/
def stepAccesses (i : Instr) : Nat := i.length + dataAccesses i

/-- Row `k` of a 16-column matrix of numbers. -/
def matrixRow (matrix : List Nat) (k : Nat) : List Nat := (matrix.drop (16 * k)).take 16

theorem getElem?_matrixRow (matrix : List Nat) (k : Nat) {column : Nat} (lt : column < 16) :
    (matrixRow matrix k)[column]? = matrix[16 * k + column]? := by
  rw [matrixRow, List.getElem?_take_of_lt lt, List.getElem?_drop]

/-- Where a row of the column acc agrees with a row of the decoder, it gives the accesses of each opcode of that row. -/
theorem accessCounts_of_row {row : Nat → Byte → Byte → Byte → Instr} {op b1 b2 : Byte} {k : Nat}
    (high : op.toNat / 16 = k)
    (agree : matrixRow accessCounts k = (List.range 16).map fun column => stepAccesses (row column op b1 b2)) :
    accessCounts[op.toNat]? = some (stepAccesses (row (op.toNat % 16) op b1 b2)) := by
  have lt : op.toNat % 16 < 16 := Nat.mod_lt _ (by decide)
  calc accessCounts[op.toNat]?
    _ = accessCounts[16 * k + op.toNat % 16]? := by rw [← high, Nat.div_add_mod]
    _ = (matrixRow accessCounts k)[op.toNat % 16]? := (getElem?_matrixRow _ k lt).symm
    _ = some (stepAccesses (row (op.toNat % 16) op b1 b2)) := by
      rw [agree, List.getElem?_map, List.getElem?_range lt, Option.map_some]

/-- The column acc of R65 lists the accesses of each decoded instruction, whatever its operand bytes. -/
theorem accessCounts_decodeOpcode (op b1 b2 : Byte) :
    accessCounts[op.toNat]? = some (stepAccesses (decodeOpcode op b1 b2)) := by
  apply decodeOpcode_rows (P := fun i => accessCounts[op.toNat]? = some (stepAccesses i)) <;>
    exact fun high => accessCounts_of_row high rfl

/-- Settles O11: a step makes the accesses of the instruction fetched, which the column acc lists. (The name
`accessCounts` is the column's own.) -/
theorem accessCountsOfStep : Obligations.AccessCounts := by
  intro s t h
  obtain ⟨b1, b2, fetched⟩ := s.fetch_instr
  rw [step_bus_length h, fetched]
  exact accessCounts_decodeOpcode (s.answer s.pc) b1 b2

/-! O26. -/

/-- The value of any operand but an immediate one is the port's answer at its effective address. -/
theorem value_memory {o : Operand} (s : State) (memory : ∀ v, o ≠ .imm v) :
    value o s = (resolve o s).state.answer (resolve o s).ea :=
  congrArg Loaded.value (loadOperand_memory s memory)

theorem value_of_ram {o : Operand} {s : State} (memory : ∀ v, o ≠ .imm v)
    (ram : openAt s.cfg (resolve o s).ea = false) : value o s = memRead s.mem (resolve o s).ea.toNat := by
  rw [← resolve_cfg o s] at ram
  rw [value_memory s memory, State.answer_ram ram, resolve_mem]

theorem value_of_open {o : Operand} {s : State} (memory : ∀ v, o ≠ .imm v)
    (isOpen : openAt s.cfg (resolve o s).ea = true) :
    value o s = Config.portByte (resolve o s).state.portSeq (resolve o s).ea := by
  rw [← resolve_cfg o s] at isOpen
  rw [value_memory s memory, State.answer_open isOpen]

theorem loadOperand_bus {o : Operand} (s : State) (memory : ∀ v, o ≠ .imm v) :
    (loadOperand o s).state.bus = (resolve o s).state.bus ++ [.read (resolve o s).ea (value o s)] := by
  rw [value_memory s memory, loadOperand_memory s memory, State.portRead_bus]

/-- Settles O26: an immediate operand needs no access; any other is one port read at its effective address. -/
theorem operandValue : Obligations.OperandValue := by
  refine fun o s => ⟨?_, fun memory => ⟨loadOperand_bus s memory, value_of_ram memory, value_of_open memory⟩⟩
  rintro v rfl
  rw [value, loadOperand_imm]
  exact ⟨rfl, rfl⟩

/-! O60. -/

/-- From `s` to `t` memory is unchanged and every access is a read. -/
def StoresNothing (s t : State) : Prop :=
  t.mem = s.mem ∧ ∃ l : List Access, t.bus = s.bus ++ l ∧ ∀ a v, Access.write a v ∉ l

theorem StoresNothing.refl (s : State) : StoresNothing s s := ⟨rfl, [], by simp, by simp⟩

theorem StoresNothing.portRead {s t : State} (h : StoresNothing s t) (a : Word) :
    StoresNothing s (t.portRead a).2 := by
  obtain ⟨mem, l, bus, reads⟩ := h
  exact ⟨mem, l ++ [.read a (t.answer a)], by simp [bus], by simp [reads]⟩

theorem Performs.storesNothing {i : Instr} {s t : State} {n : Nat} (h : Performs i s n t)
    (kept : writesMemory i = false) : StoresNothing s t := by
  induction h with
  | start => exact .refl s
  | read _ a ih => exact ih.portRead a
  | write _ w => simp [kept] at w
  | _ => assumption

theorem Retires.storesNothing {i : Instr} {n : Nat} {c : CostClass} {m : Mode} {s t : State} (h : Retires i n c m s t)
    (kept : writesMemory i = false) : StoresNothing s t := by
  obtain ⟨u, pc, penalty, run, rfl, -, -⟩ := h
  exact run.storesNothing kept

/-- Settles O60: what an instruction performs writes at the port only where the instruction is one of the writers. -/
theorem memoryWriters : Obligations.MemoryWriters :=
  fun _ _ _ h kept => (exec_retires h).storesNothing kept

end Sys2Proof.Machine

/-! PROOFS for 30_encoding.md: O1 to O5 and O13. Decoder and encoder meet in the opcode byte and the operand bytes: a list
decodes where it is an opcode byte followed by as many operand bytes as the opcode's length asks for, and the operand bytes
of what is decoded are those bytes. The cost of an instruction follows from the shape of its data access. -/
namespace Sys2Proof

open Sys2Proof.Machine Sys2Proof.Claims

/-! The bytes of an instruction (R55 to R57). -/

theorem opcodeLength_cases (op : Byte) : opcodeLength op = 1 ∨ opcodeLength op = 2 ∨ opcodeLength op = 3 :=
  Mode.length_cases (decodeOpcode op 0 0).mode

/-- A list that is an opcode byte, as many operand bytes as its length asks for, and a rest decodes to the opcode's
instruction. -/
theorem decode_cons_append {op : Byte} {bs : List Byte} (len : bs.length + 1 = opcodeLength op) (rest : List Byte) :
    decode (op :: (bs ++ rest)) = .ok (decodeOpcode op (bs.getD 0 0) (bs.getD 1 0), rest) := by
  have lengths := opcodeLength_cases op
  match bs with
  | [] | [_] | [_, _] => simp [decode, ← len]
  | _ :: _ :: _ :: _ =>
    simp only [List.length_cons] at len
    omega

/-- Only such a list decodes. -/
theorem decode_eq_ok {bytes rest : List Byte} {i : Instr} (h : decode bytes = .ok (i, rest)) :
    ∃ (op : Byte) (bs : List Byte), bs.length + 1 = opcodeLength op ∧ bytes = op :: (bs ++ rest) ∧
      i = decodeOpcode op (bs.getD 0 0) (bs.getD 1 0) := by
  match bytes with
  | [] => cases h
  | op :: tail =>
    suffices ∃ bs rest', bs.length + 1 = opcodeLength op ∧ tail = bs ++ rest' by
      obtain ⟨bs, rest', len, rfl⟩ := this
      cases (decode_cons_append len rest').symm.trans h
      exact ⟨op, bs, len, rfl, rfl⟩
    rcases opcodeLength_cases op with len | len | len
    · exact ⟨[], tail, len.symm, rfl⟩
    · match tail with
      | [] => simp [decode, len] at h
      | b1 :: rest' => exact ⟨[b1], rest', len.symm, rfl⟩
    · match tail with
      | [] | [_] => simp [decode, len] at h
      | b1 :: b2 :: rest' => exact ⟨[b1, b2], rest', len.symm, rfl⟩

theorem Operand.length_bytes (o : Operand) : o.bytes.length + 1 = o.mode.length := by
  cases o <;> rfl

theorem ShiftOperand.length_bytes (o : ShiftOperand) : o.bytes.length + 1 = o.mode.length := by
  cases o with
  | acc => rfl
  | mem o => exact o.length_bytes

/-- An instruction has one byte more than its operand (R56). -/
theorem Instr.length_operandBytes (i : Instr) : i.operandBytes.length + 1 = i.length := by
  cases i with
  | adc o | and o | bit o | cmp o | cpx o | cpy o | dec o | eor o | inc o | lda o | ldx o | ldy o | ora o | sbc o
  | sta o | stx o | sty o => exact o.length_bytes
  | asl o | lsr o | rol o | ror o => exact o.length_bytes
  | jmp o => cases o <;> rfl
  | _ => rfl

theorem encode_of_opcode? {i : Instr} {op : Byte} (h : i.opcode? = some op) : encode i = op :: i.operandBytes := by
  simp only [encode, h]

/-! O1. -/

/-- The instruction has an opcode byte, and the decoder reads the instruction back from that byte and its operand
bytes. -/
def ReadBack (i : Instr) : Prop :=
  ∃ op, i.opcode? = some op ∧ decodeOpcode op (i.operandBytes.getD 0 0) (i.operandBytes.getD 1 0) = i

/-- The opcode map gives each of the illegal bytes to the placeholder (R64). -/
theorem decodeOpcode_illegal {op : Byte} (illegal : illegalBytes.contains op.toNat = true) :
    decodeOpcode op 0 0 = .ill op := by
  have table : ∀ n ∈ illegalBytes, decodeOpcode (BitVec.ofNat 8 n) 0 0 = .ill (BitVec.ofNat 8 n) := by decide +kernel
  have entry := table op.toNat (List.contains_iff_mem.mp illegal)
  rwa [BitVec.ofNat_toNat, BitVec.setWidth_eq] at entry

theorem readBack_ill {op : Byte} (ok : (Instr.ill op).wellFormed = true) : ReadBack (.ill op) :=
  ⟨op, rfl, decodeOpcode_illegal ok⟩

/-- An absolute address is read back from its two bytes, the low one first (R57). -/
theorem readBack_absolute {i : Instr} {op : Byte} {a : Word} (opcode : i.opcode? = some op)
    (bytes : i.operandBytes = [loByte a, hiByte a])
    (row : ∀ b1 b2, wordOf b2 b1 = a → decodeOpcode op b1 b2 = i) : ReadBack i := by
  refine ⟨op, opcode, ?_⟩
  rw [bytes]
  exact row _ _ (wordOf_hiByte_loByte a)

/-- Mode by mode of each handler: an accepted mode is read back, no other mode is well-formed (R73). -/
theorem readBack_of_wellFormed {i : Instr} (ok : i.wellFormed = true) : ReadBack i := by
  cases i with
  | ill op => exact readBack_ill ok
  | adc o | and o | cmp o | eor o | lda o | ora o | sbc o =>
    cases o with
    | zpY => exact nomatch ok
    | abs a | absX a | absY a => exact readBack_absolute rfl rfl fun _ _ word => word ▸ rfl
    | _ => exact ⟨_, rfl, rfl⟩
  | sta o =>
    cases o with
    | imm | zpY => exact nomatch ok
    | abs a | absX a | absY a => exact readBack_absolute rfl rfl fun _ _ word => word ▸ rfl
    | _ => exact ⟨_, rfl, rfl⟩
  | ldx o =>
    cases o with
    | zpX | absX | indX | indY => exact nomatch ok
    | abs a | absY a => exact readBack_absolute rfl rfl fun _ _ word => word ▸ rfl
    | _ => exact ⟨_, rfl, rfl⟩
  | ldy o =>
    cases o with
    | zpY | absY | indX | indY => exact nomatch ok
    | abs a | absX a => exact readBack_absolute rfl rfl fun _ _ word => word ▸ rfl
    | _ => exact ⟨_, rfl, rfl⟩
  | cpx o | cpy o =>
    cases o with
    | imm | zp => exact ⟨_, rfl, rfl⟩
    | abs a => exact readBack_absolute rfl rfl fun _ _ word => word ▸ rfl
    | _ => exact nomatch ok
  | bit o =>
    cases o with
    | zp => exact ⟨_, rfl, rfl⟩
    | abs a => exact readBack_absolute rfl rfl fun _ _ word => word ▸ rfl
    | _ => exact nomatch ok
  | stx o =>
    cases o with
    | zp | zpY => exact ⟨_, rfl, rfl⟩
    | abs a => exact readBack_absolute rfl rfl fun _ _ word => word ▸ rfl
    | _ => exact nomatch ok
  | sty o =>
    cases o with
    | zp | zpX => exact ⟨_, rfl, rfl⟩
    | abs a => exact readBack_absolute rfl rfl fun _ _ word => word ▸ rfl
    | _ => exact nomatch ok
  | inc o | dec o =>
    cases o with
    | zp | zpX => exact ⟨_, rfl, rfl⟩
    | abs a | absX a => exact readBack_absolute rfl rfl fun _ _ word => word ▸ rfl
    | _ => exact nomatch ok
  | asl o | lsr o | rol o | ror o =>
    cases o with
    | acc => exact ⟨_, rfl, rfl⟩
    | mem o =>
      cases o with
      | zp | zpX => exact ⟨_, rfl, rfl⟩
      | abs a | absX a => exact readBack_absolute rfl rfl fun _ _ word => word ▸ rfl
      | _ => exact nomatch ok
  | jmp o =>
    cases o with
    | abs a | ind a => exact readBack_absolute rfl rfl fun _ _ word => word ▸ rfl
  | jsr a => exact readBack_absolute rfl rfl fun _ _ word => word ▸ rfl
  | _ => exact ⟨_, rfl, rfl⟩

/-- Settles O1: the opcode byte and the operand bytes of a well-formed instruction are as many as the decoder asks for,
and it reads the instruction back from them. -/
theorem decodeOfEncode : Obligations.DecodeOfEncode := by
  intro i rest ok
  obtain ⟨op, opcode, back⟩ := readBack_of_wellFormed ok
  have len : i.operandBytes.length + 1 = opcodeLength op := by
    rw [i.length_operandBytes, ← decodeOpcode_length, back]
  rw [encode_of_opcode? opcode, List.cons_append, decode_cons_append len, back]

/-! O2. -/

/-- A row of the opcode map holds well-formed instructions if each of its 16 columns does. -/
theorem wellFormed_of_row {row : Nat → Byte → Byte → Byte → Instr} {op b1 b2 : Byte} {k : Nat}
    (high : op.toNat / 16 = k)
    (columns : (List.range 16).all (fun l => (row l (BitVec.ofNat 8 (16 * k + l)) b1 b2).wellFormed) = true) :
    (row (op.toNat % 16) op b1 b2).wellFormed = true := by
  have column := List.all_eq_true.mp columns (op.toNat % 16) (List.mem_range.mpr (Nat.mod_lt _ (by decide)))
  rwa [← byte_of_row_column high rfl] at column

theorem decodeOpcode_wellFormed (op b1 b2 : Byte) : (decodeOpcode op b1 b2).wellFormed = true := by
  apply decodeOpcode_rows (P := fun i => i.wellFormed = true) <;> exact fun high => wellFormed_of_row high rfl

/-- The operand bytes of a decoded instruction are the bytes after its opcode, as many as its length leaves (R57). -/
theorem operandBytes_decodeOpcode (op b1 b2 : Byte) :
    (decodeOpcode op b1 b2).operandBytes = [b1, b2].take ((decodeOpcode op b1 b2).length - 1) := by
  apply decodeOpcode_rows (P := fun i => i.operandBytes = [b1, b2].take (i.length - 1)) <;> intro _
  all_goals
    simp only [decodeRow0, decodeRow1, decodeRow2, decodeRow3, decodeRow4, decodeRow5, decodeRow6, decodeRow7,
      decodeRow8, decodeRow9, decodeRowA, decodeRowB, decodeRowC, decodeRowD, decodeRowE, decodeRowF]
    split <;> simp [Instr.operandBytes, Operand.bytes, ShiftOperand.bytes, JumpOperand.bytes, Instr.length, Instr.mode,
      Operand.mode, ShiftOperand.mode, JumpOperand.mode, Mode.length]

/-- The operand bytes an opcode is decoded with are those of the instruction. -/
theorem operandBytes_of_length {op : Byte} {bs : List Byte} (len : bs.length + 1 = opcodeLength op) :
    (decodeOpcode op (bs.getD 0 0) (bs.getD 1 0)).operandBytes = bs := by
  have lengths := opcodeLength_cases op
  rw [operandBytes_decodeOpcode, decodeOpcode_length, ← len, Nat.add_sub_cancel]
  match bs with
  | [] | [_] | [_, _] => rfl
  | _ :: _ :: _ :: _ =>
    simp only [List.length_cons] at len
    omega

/-- Settles O2: what is decoded is well-formed, its opcode byte is the list's first byte and its operand bytes are those
after it. -/
theorem encodeOfDecode : Obligations.EncodeOfDecode := by
  intro bytes i rest h
  obtain ⟨op, bs, len, rfl, rfl⟩ := decode_eq_ok h
  refine ⟨decodeOpcode_wellFormed op _ _, ?_⟩
  rw [encode_of_opcode? (opcode?_decodeOpcode op _ _), operandBytes_of_length len, List.cons_append]

/-! O5. -/

/-- Settles O5: each clause runs the decoder on the word. -/
theorem decodeSampleWords : Obligations.DecodeSampleWords :=
  ⟨rfl, rfl, rfl, rfl, rfl, rfl, rfl, rfl, rfl, rfl, rfl, rfl, rfl⟩

end Sys2Proof

namespace Sys2Proof.Machine

open Sys2Proof.Claims

/-! O3. -/

theorem instrId_lt (i : Instr) : instrId i < 2 ^ 6 := by
  cases i <;> exact Nat.le_of_ble_eq_true rfl

theorem modeTag_lt (m : Mode) : modeTag m < 2 ^ 4 := by
  cases m <;> decide

theorem baseCost_lt (c : CostClass) (m : Mode) : baseCost c m < 2 ^ 3 :=
  Nat.lt_succ_of_le ((Nat.le_add_right _ _).trans (baseCost_le c m))

/-- The four fields of a ROM word do not overlap, so their sum is their bitwise or (R59). -/
theorem fields_sum_eq_or {instr mode base : Nat} (pen : Nat) (hinstr : instr < 2 ^ 6) (hmode : mode < 2 ^ 4)
    (hbase : base < 2 ^ 3) :
    instr + mode * 2 ^ 6 + base * 2 ^ 10 + pen * 2 ^ 13 =
      (instr ||| (mode <<< 6) ||| (base <<< 10) ||| (pen <<< 13)) := by
  have join {low n : Nat} (high : Nat) (lt : low < 2 ^ n) : (low ||| high <<< n) = low + high * 2 ^ n := by
    rw [Nat.or_comm, Nat.shiftLeft_eq, Nat.mul_comm, ← Nat.two_pow_add_eq_or_of_lt lt, Nat.add_comm]
  rw [join mode hinstr, join base (by omega), join pen (by omega)]

/-- The table of R65 lists the ROM words in the order of the opcode bytes. -/
theorem romWords_eq : romWords = (List.range 256).map fun n => lutWord (BitVec.ofNat 8 n) := by decide +kernel

/-- Settles O3: the fields fit beside each other, and the table of R65 is the list of the words. (The name `romWords` is the
table's own.) -/
theorem romWordsOfOpcodes : Obligations.RomWords := by
  refine fun op => ⟨fields_sum_eq_or _ (instrId_lt _) (modeTag_lt _) (baseCost_lt _ _), ?_⟩
  rw [romWords_eq, List.getElem?_map, List.getElem?_range op.isLt, Option.map_some, BitVec.ofNat_toNat,
    BitVec.setWidth_eq]

/-! O4. -/

/-- The placeholder alone has the last handler number (R63). -/
theorem instrId_lt_or_ill (i : Instr) : instrId i < 56 ∨ ∃ op, i = .ill op := by
  cases i with
  | ill op => exact .inr ⟨op, rfl⟩
  | _ => exact .inl (Nat.le_of_ble_eq_true rfl)

theorem lutEntry_illegal {op : Byte} (illegal : illegalBytes.contains op.toNat = true) :
    lutEntry op = ⟨56, .implied, 2, .none⟩ := by
  simp only [lutEntry, decodeOpcode_illegal illegal]
  rfl

/-- A byte that decodes to the placeholder is illegal, since what is decoded is well-formed. -/
theorem illegal_of_decodeOpcode {op op' : Byte} (h : decodeOpcode op 0 0 = .ill op') :
    illegalBytes.contains op.toNat = true := by
  have opcode := opcode?_decodeOpcode op 0 0
  have ok := decodeOpcode_wellFormed op 0 0
  rw [h] at opcode ok
  cases opcode
  exact ok

/-- Settles O4: the illegal bytes decode to the placeholder, and nothing else does. -/
theorem illegalOpcodes : Obligations.IllegalOpcodes := by
  refine ⟨rfl, fun op => ⟨fun illegal => ⟨decodeOpcode_illegal illegal, lutEntry_illegal illegal⟩, fun legal => ?_⟩⟩
  obtain lt | ⟨op', ill⟩ := instrId_lt_or_ill (decodeOpcode op 0 0)
  · exact lt
  · rw [illegal_of_decodeOpcode ill] at legal
    cases legal

/-! O13. The penalties on numbers, then the cost of each shape of instruction. -/

/-- A 16-bit sum with an index crosses a page where the high byte of the wrapped sum is another one (R86, R87). -/
theorem indexed_crossed (base : Word) (index : Byte) (s : State) :
    (indexed base index s).crossed =
      !decide ((base.toNat + index.toNat) % 65536 / 256 = base.toNat / 256) := by
  rw [indexed, Bool.eq_iff_iff]
  simp [← BitVec.toNat_inj, toNat_hiByte]

theorem pagePenalty_indexed {m : Mode} (pen : penaltyClass .read m = .pageCross) (base : Word) (index : Byte)
    (s : State) :
    pagePenalty .read m (indexed base index s).crossed =
      if (base.toNat + index.toNat) % 65536 / 256 = base.toNat / 256 then 0 else 1 := by
  simp [pagePenalty, pen, indexed_crossed]

/-- The penalty of the read class is the page-cross penalty of R93 on numbers. -/
theorem pagePenalty_loadOperand (o : Operand) (s : State) :
    pagePenalty .read o.mode (loadOperand o s).crossed = pageCost o s := by
  cases o with
  | absX a | absY a => exact pagePenalty_indexed rfl a _ s
  | indY z => exact pagePenalty_indexed rfl (s.zeroPageWord z).1 s.y (s.zeroPageWord z).2
  | _ => rfl

theorem toNat_nextPC_relative (s : State) : (s.nextPC .relative).toNat = branchNext s := toNat_nextPC s .relative

theorem toNat_branchTarget (d : Byte) (s : State) : (s.nextPC .relative + sext16 d).toNat = branchTarget d s := by
  have sext : (sext16 d).toNat = (d.toInt % 65536).toNat := BitVec.toNat_ofInt d.toInt
  rw [BitVec.toNat_add, toNat_nextPC_relative, sext, branchNext, branchTarget]
  omega

theorem branchPenalty_eq (taken : Bool) (d : Byte) (s : State) :
    branchPenalty taken (s.nextPC .relative + sext16 d) (s.nextPC .relative) = branchCost taken d s := by
  simp only [branchPenalty, branchCost, ← BitVec.toNat_inj, toNat_hiByte, toNat_branchTarget, toNat_nextPC_relative]

/-- What retires with the parameters of `s` holds the cost of its class and mode, the penalty added (R92, R95). -/
theorem costs_retire {s u : State} (cfg : u.cfg = s.cfg) (pc : Word) (c : CostClass) (m : Mode) (k : Nat) :
    Costs s (u.retire pc c m k) (baseCost c m) k := by
  rw [Costs, State.retire_cycles, State.retire_bus, counterValue, cfg]
  cases s.cfg.cycleModel <;> rfl

theorem readInstr_costs (o : Operand) {f : Byte → State → State} (keeps : ∀ v t, (f v t).cfg = t.cfg) (s : State) :
    Costs s (readInstr o f s) (readCost o.mode) (pageCost o s) := by
  rw [← pagePenalty_loadOperand]
  exact costs_retire ((keeps _ _).trans (loadOperand_cfg o s)) _ .read _ _

theorem storeInstr_costs (o : Operand) (v : Byte) (s : State) : Costs s (storeInstr o v s) (writeCost o.mode) 0 := by
  refine costs_retire ?_ _ .write o.mode 0
  exact resolve_cfg o s

theorem modifyMemory_costs (o : Operand) (f : Byte → Byte → Byte × Byte) (s : State) :
    Costs s (modifyMemory o f s) (readModifyWriteCost o.mode) 0 := by
  refine costs_retire ?_ _ .readModifyWrite o.mode 0
  exact resolve_cfg o s

theorem modifyInstr_costs (o : ShiftOperand) (f : Byte → Byte → Byte × Byte) (s : State) :
    Costs s (modifyInstr o f s) (readModifyWriteCost o.mode) 0 := by
  cases o with
  | acc => exact costs_retire rfl _ .readModifyWrite .accumulator 0
  | mem o => exact modifyMemory_costs o f s

theorem impliedInstr_costs {f : State → State} (keeps : ∀ t, (f t).cfg = t.cfg) (s : State) :
    Costs s (impliedInstr f s) 2 0 :=
  costs_retire (keeps s) _ .otherImplied .implied 0

theorem branchInstr_costs (taken : Bool) (d : Byte) (s : State) :
    Costs s (branchInstr taken d s) 2 (branchCost taken d s) := by
  rw [← branchPenalty_eq]
  exact costs_retire rfl _ .branch .relative _

/-- The outcomes of an instruction with its cost: it completes at its base cost and penalty, or is refused. -/
theorem exec_costs_or_refuses (i : Instr) (s : State) :
    (∃ t, exec i s = .next t ∧ Costs s t (baseCost (costClass i) i.mode) (penalty i s)) ∨
    ∃ r, exec i s = .refused r := by
  cases i with
  | adc o | and o | bit o | cmp o | cpx o | cpy o | eor o | lda o | ldx o | ldy o | ora o | sbc o =>
    exact .inl ⟨_, rfl, readInstr_costs o (fun _ _ => rfl) s⟩
  | sta o | stx o | sty o => exact .inl ⟨_, rfl, storeInstr_costs o _ s⟩
  | inc o | dec o => exact .inl ⟨_, rfl, modifyMemory_costs o _ s⟩
  | asl o | lsr o | rol o | ror o => exact .inl ⟨_, rfl, modifyInstr_costs o _ s⟩
  | bcc d | bcs d | beq d | bmi d | bne d | bpl d | bvc d | bvs d => exact .inl ⟨_, rfl, branchInstr_costs _ d s⟩
  | clc | cld | cli | clv | sec | sed | sei | dex | dey | inx | iny | nop | tax | tay | tsx | txa | txs | tya =>
    exact .inl ⟨_, rfl, impliedInstr_costs (fun _ => rfl) s⟩
  | jmp o =>
    cases o with
    | abs a => exact .inl ⟨_, rfl, costs_retire rfl _ .jmp .absolute 0⟩
    | ind p => exact .inl ⟨_, rfl, costs_retire (State.portReadWord_cfg s _ _) _ .jmp .indirect 0⟩
  | jsr a => exact .inl ⟨_, rfl, costs_retire (s.pushWord_cfg _) _ .jsr .absolute 0⟩
  | rts => exact .inl ⟨_, rfl, costs_retire s.pullWord_cfg _ .rts .implied 0⟩
  | rti => exact .inl ⟨_, rfl, costs_retire s.leaveTrap_cfg _ .rti .implied 0⟩
  | brk => exact .inl ⟨_, rfl, costs_retire (s.enterTrap_cfg _) _ .brk .implied 0⟩
  | pha | php => exact .inl ⟨_, rfl, costs_retire (s.push_cfg _) _ .push .implied 0⟩
  | pla | plp =>
    refine .inl ⟨_, rfl, costs_retire ?_ (s.nextPC .implied) .pull .implied 0⟩
    exact s.pull_cfg
  | ill op =>
    cases policy : s.cfg.illegalPolicy with
    | nop =>
      exact .inl ⟨s.retire (s.nextPC .implied) .illegal .implied 0, by simp only [exec, execIll, policy],
        costs_retire rfl _ .illegal .implied 0⟩
    | refuse => exact .inr ⟨.illegalOpcode op, by simp only [exec, execIll, policy]⟩

/-- Settles O13: an instruction that is not refused retires with the cost of its shape. -/
theorem costOfEveryInstruction : Obligations.CostOfEveryInstruction := by
  intro i s t h
  obtain ⟨u, next, costs⟩ | ⟨_, refused⟩ := exec_costs_or_refuses i s
  · cases next.symm.trans h
    exact costs
  · cases refused.symm.trans h

end Sys2Proof.Machine

/-! PROOFS for 40_step_and_addressing.md: O6, O7, O9, O10, O12, O22 to O25 and O44. A fetch is said once, in the words of the
statements: `fetch_of_answers` gives the instruction and the state from the bytes the port answers. A 16-bit value read in
two accesses is said once too, on numbers: `portReadWord_bytes` serves both zero-page pointers and JMP's. -/
namespace Sys2Proof

open Sys2Proof.Machine

/-! O6. -/

/-- A list that holds at least the bytes its opcode asks for decodes, and they are consumed (R72). -/
theorem decode_of_opcodeLength_le {op : Byte} {tail : List Byte} (long : opcodeLength op ≤ tail.length + 1) :
    ∃ i, decode (op :: tail) = .ok (i, (op :: tail).drop i.length) ∧ i.length = opcodeLength op := by
  obtain ⟨n, len⟩ : ∃ n, opcodeLength op = n + 1 := by
    rcases opcodeLength_cases op with h | h | h <;> exact ⟨_, h⟩
  have operands : (tail.take n).length + 1 = opcodeLength op := by
    rw [List.length_take]
    omega
  refine ⟨decodeOpcode op ((tail.take n).getD 0 0) ((tail.take n).getD 1 0), ?_, decodeOpcode_length op _ _⟩
  rw [decodeOpcode_length, len, List.drop_succ_cons, ← decode_cons_append operands, List.take_append_drop]

/-- Settles O6: the two bytes after the opcode are as many as any opcode asks for. -/
theorem everyOpcodeDecodes : Obligations.EveryOpcodeDecodes := by
  intro op b1 b2 rest
  have long : opcodeLength op ≤ (b1 :: b2 :: rest).length + 1 := by
    have := opcodeLength_cases op
    simp only [List.length_cons]
    omega
  obtain ⟨i, decodes, len⟩ := decode_of_opcodeLength_le long
  refine ⟨i, decodes, len, ?_⟩
  rw [Instr.length]
  cases i.mode <;> rfl

end Sys2Proof

namespace Sys2Proof.Machine

open Sys2Proof.Claims

/-! O7. The fetch, from the bytes the port answers. -/

/-- The state in which the bytes `bs` from PC on have been read as the step's first accesses (R71, R76). -/
def State.afterFetch (s : State) (bs : List Byte) : State :=
  { s with cycles := 0, bus := fetchReads s.pc bs, portSeq := s.portSeq + bs.length }

theorem fetchReads_concat (pc : Word) (bs : List Byte) (b : Byte) :
    fetchReads pc (bs ++ [b]) = fetchReads pc bs ++ [.read (pc + BitVec.ofNat 16 bs.length) b] := by
  induction bs generalizing pc with
  | nil => simp [fetchReads]
  | cons c bs ih =>
    have address : pc + 1 + BitVec.ofNat 16 bs.length = pc + BitVec.ofNat 16 (bs.length + 1) := by
      rw [BitVec.add_assoc, BitVec.add_comm 1, BitVec.ofNat_add]
      rfl
    simp only [List.cons_append, fetchReads, ih, List.length_cons, address]

/-- The read of one more byte of the instruction (R75). -/
theorem State.portRead_afterFetch {s : State} {bs : List Byte} {b : Byte} {address : Word}
    (next : address = s.pc + BitVec.ofNat 16 bs.length)
    (answered : { s with portSeq := s.portSeq + bs.length }.answer address = b) :
    (s.afterFetch bs).portRead address = (b, s.afterFetch (bs ++ [b])) := by
  subst answered next
  simp only [State.afterFetch, fetchReads_concat, List.length_append, List.length_singleton, ← Nat.add_assoc]
  rfl

/-- The fetch gives the instruction of the bytes the port answers, after reading as many as the opcode asks for (R70). -/
theorem State.fetch_of_answers {s : State} {op : Byte} {bs : List Byte} (len : bs.length + 1 = opcodeLength op)
    (answers : Answers s s.portSeq s.pc (op :: bs)) :
    s.fetch = (decodeOpcode op (bs.getD 0 0) (bs.getD 1 0), s.afterFetch (op :: bs)) := by
  obtain ⟨first, operands⟩ := answers
  have readOpcode : s.beginStep.portRead s.pc = (op, s.afterFetch [op]) :=
    State.portRead_afterFetch (bs := []) (BitVec.add_zero _).symm first
  have lengths := opcodeLength_cases op
  match bs with
  | [] => simp [State.fetch, readOpcode, ← len]
  | [b1] =>
    have readLow : (s.afterFetch [op]).portRead (s.pc + 1) = (b1, s.afterFetch [op, b1]) :=
      State.portRead_afterFetch rfl operands.1
    simp only [State.fetch, readOpcode, readLow, ← len]
    rfl
  | [b1, b2] =>
    obtain ⟨low, high, -⟩ := operands
    rw [BitVec.add_assoc] at high
    have readLow : (s.afterFetch [op]).portRead (s.pc + 1) = (b1, s.afterFetch [op, b1]) :=
      State.portRead_afterFetch rfl low
    have readHigh : (s.afterFetch [op, b1]).portRead (s.pc + 2) = (b2, s.afterFetch [op, b1, b2]) :=
      State.portRead_afterFetch rfl high
    simp only [State.fetch, readOpcode, readLow, readHigh, ← len]
    rfl
  | _ :: _ :: _ :: _ =>
    simp only [List.length_cons] at len
    omega

/-- Settles O7: what decodes is an opcode byte and the operand bytes it asks for, and the fetch reads just those. -/
theorem stepRunsDecoded : Obligations.StepRunsDecoded := by
  intro s bytes i decodes answers
  obtain ⟨op, bs, len, rfl, rfl⟩ := decode_eq_ok decodes
  rw [List.append_nil] at answers ⊢
  rw [step, State.fetch_of_answers len answers]
  rfl

/-! O10. -/

/-- To any number of reads the port answers some bytes. -/
theorem exists_answers (s : State) (k n : Nat) (pc : Word) : ∃ bs, bs.length = k ∧ Answers s n pc bs := by
  induction k generalizing n pc with
  | zero => exact ⟨[], rfl, trivial⟩
  | succ k ih =>
    obtain ⟨bs, len, answers⟩ := ih (n + 1) (pc + 1)
    exact ⟨_ :: bs, congrArg (· + 1) len, rfl, answers⟩

/-- Every fetch is that of the bytes the port answers from PC on, the opcode first. -/
theorem State.fetch_cases (s : State) : ∃ bs : List Byte, bs.length + 1 = opcodeLength (s.answer s.pc) ∧
    s.fetch = (decodeOpcode (s.answer s.pc) (bs.getD 0 0) (bs.getD 1 0), s.afterFetch (s.answer s.pc :: bs)) := by
  obtain ⟨bs, len, answers⟩ := exists_answers s (opcodeLength (s.answer s.pc) - 1) (s.portSeq + 1) (s.pc + 1)
  have pos := opcodeLength_cases (s.answer s.pc)
  have operands : bs.length + 1 = opcodeLength (s.answer s.pc) := by omega
  exact ⟨bs, operands, State.fetch_of_answers operands ⟨rfl, answers⟩⟩

theorem Performs.bus_append {i : Instr} {s t : State} {n : Nat} (h : Performs i s n t) :
    ∃ others, t.bus = s.bus ++ others := by
  induction h with
  | start => exact ⟨[], (List.append_nil _).symm⟩
  | read _ a ih =>
    obtain ⟨others, bus⟩ := ih
    exact ⟨_, by rw [State.portRead_bus, bus, List.append_assoc]⟩
  | write _ _ a v ih =>
    obtain ⟨others, bus⟩ := ih
    exact ⟨_, by rw [State.portWrite_bus, bus, List.append_assoc]⟩
  | _ => assumption

theorem Retires.bus_append {i : Instr} {n : Nat} {c : CostClass} {m : Mode} {s t : State} (h : Retires i n c m s t) :
    ∃ others, t.bus = s.bus ++ others := by
  obtain ⟨u, pc, penalty, run, rfl, -, -⟩ := h
  exact run.bus_append

/-- Settles O10: the instruction appends its accesses to those of its fetch. -/
theorem fetchComesFirst : Obligations.FetchComesFirst := by
  intro s t h
  obtain ⟨bs, len, fetched⟩ := s.fetch_cases
  rw [step, fetched] at h
  obtain ⟨others, bus⟩ := (exec_retires h).bus_append
  exact ⟨s.answer s.pc :: bs, others, bus, rfl, len⟩

/-! O9. -/

/-- Where the opcode has no operand bytes, the instruction fetched is the opcode's alone. -/
theorem State.fetch_instr_of_length {s : State} (len : opcodeLength (s.answer s.pc) = 1) :
    s.fetch.1 = decodeOpcode (s.answer s.pc) 0 0 := by
  obtain ⟨bs, operands, fetched⟩ := s.fetch_cases
  have empty : bs = [] := List.eq_nil_of_length_eq_zero (by omega)
  rw [fetched, empty]
  rfl

/-- An illegal opcode is fetched as the placeholder with its own byte (R64). -/
theorem State.fetch_illegal {s : State} (illegal : illegalBytes.contains (s.answer s.pc).toNat = true) :
    s.fetch.1 = .ill (s.answer s.pc) := by
  have placeholder := decodeOpcode_illegal illegal
  rw [s.fetch_instr_of_length (by rw [opcodeLength, placeholder]; rfl), placeholder]

/-- The placeholder is fetched for an illegal opcode only. -/
theorem State.illegal_of_fetch {s : State} {op : Byte} (ill : s.fetch.1 = .ill op) :
    illegalBytes.contains (s.answer s.pc).toNat = true := by
  obtain ⟨b1, b2, fetched⟩ := s.fetch_instr
  have len : opcodeLength (s.answer s.pc) = 1 := by
    rw [← decodeOpcode_length _ b1 b2, ← fetched, ill]
    rfl
  exact illegal_of_decodeOpcode ((s.fetch_instr_of_length len).symm.trans ill)

/-- Settles O9: under `REFUSE` the placeholder is refused, every other instruction completes. -/
theorem refusePolicy : Obligations.RefusePolicy := by
  refine fun s policy => ⟨fun illegal => ?_, fun legal => ?_⟩
  · rw [step, State.fetch_illegal illegal]
    simp only [exec, execIll, s.fetch_cfg, policy]
  · obtain ⟨t, next, -⟩ | ⟨op, ill, -, -⟩ := step_cases s
    · exact ⟨t, next⟩
    · rw [State.illegal_of_fetch ill] at legal
      cases legal

/-! O12. -/

/-- Settles O12: the bound of R96 under either cycle model. -/
theorem cycleBound : Obligations.CycleBound := by
  intro s t h
  have bound := step_cycles_le h
  rw [step_cfg h] at bound
  refine ⟨fun model => ?_, fun model => ?_⟩ <;> rwa [model] at bound

/-! O22 and O23. -/

/-- Settles O22: the sum with an index is one of bytes, so it wraps before it becomes an address. -/
theorem zeroPageModes : Obligations.ZeroPageModes := fun z s =>
  ⟨toNat_zext16 z, (toNat_zext16 _).trans (BitVec.toNat_add z s.x), (toNat_zext16 _).trans (BitVec.toNat_add z s.y),
    ⟨rfl, rfl, rfl⟩, rfl, rfl, rfl⟩

theorem toNat_indexed_ea (base : Word) (index : Byte) (s : State) :
    (indexed base index s).ea.toNat = (base.toNat + index.toNat) % 65536 := by
  simp [indexed]

theorem indexed_crossed_iff (base : Word) (index : Byte) (s : State) :
    (indexed base index s).crossed = true ↔ (base.toNat + index.toNat) % 65536 / 256 ≠ base.toNat / 256 := by
  simp [indexed_crossed]

/-- Settles O23: the two indexed modes are one sum, the others add nothing to an address. -/
theorem absoluteModes : Obligations.AbsoluteModes := fun _ a s =>
  ⟨BitVec.toNat_add _ _, rfl, toNat_indexed_ea a s.x s, toNat_indexed_ea a s.y s, ⟨rfl, rfl⟩,
    indexed_crossed_iff a s.x s, indexed_crossed_iff a s.y s, rfl, rfl, rfl, rfl⟩

/-! O24, O25 and O44. -/

/-- A 16-bit value read in two accesses is the word of the two bytes answered, which are memory's behind a plain RAM port
(R43, R44). -/
theorem State.portReadWord_bytes (s : State) {lowAddress highAddress : Word} {l h : Nat} (low : lowAddress.toNat = l)
    (high : highAddress.toNat = h) : ∃ lo hi : Byte,
    (s.portReadWord lowAddress highAddress).2.bus =
      s.bus ++ [.read (BitVec.ofNat 16 l) lo, .read (BitVec.ofNat 16 h) hi] ∧
    (s.portReadWord lowAddress highAddress).1.toNat = hi.toNat * 256 + lo.toNat ∧
    (PlainRam s → lo = memRead s.mem l ∧ hi = memRead s.mem h) := by
  subst low high
  refine ⟨s.answer lowAddress, (s.portRead lowAddress).2.answer highAddress, ?_, ?_, fun ram => ?_⟩
  · simp
  · rw [State.portReadWord_value, toNat_wordOf]
  · exact ⟨State.answer_ram (ram _), State.answer_ram (ram _)⟩

/-- The pointer bytes of the two indirect modes stand in page 0, the high one too (R44). -/
theorem State.zeroPageWord_bytes (s : State) {pointer : Byte} {n : Nat} (mod : pointer.toNat = n % 256) :
    ∃ lo hi : Byte,
    (s.zeroPageWord pointer).2.bus =
      s.bus ++ [.read (BitVec.ofNat 16 (n % 256)) lo, .read (BitVec.ofNat 16 ((n + 1) % 256)) hi] ∧
    (s.zeroPageWord pointer).1.toNat = hi.toNat * 256 + lo.toNat ∧
    (PlainRam s → lo = memRead s.mem (n % 256) ∧ hi = memRead s.mem ((n + 1) % 256)) := by
  refine s.portReadWord_bytes ?_ ?_
  · rw [toNat_zext16, mod]
  · simp [mod]

/-- Settles O24: the sum with X is one of bytes, and the pointer there stands in page 0. -/
theorem preIndexedMode : Obligations.PreIndexedMode := by
  intro z s
  obtain ⟨lo, hi, bus, word, ram⟩ := s.zeroPageWord_bytes (BitVec.toNat_add z s.x)
  exact ⟨lo, hi, bus, word, rfl, ram⟩

/-- Settles O25: the base is read at a pointer in page 0, and the sum with Y is that of an indexed mode. -/
theorem postIndexedMode : Obligations.PostIndexedMode := by
  intro z s
  have mod : z.toNat = z.toNat % 256 := (Nat.mod_eq_of_lt z.isLt).symm
  obtain ⟨lo, hi, bus, word, ram⟩ := s.zeroPageWord_bytes mod
  rw [← mod] at bus ram
  have page : (s.zeroPageWord z).1.toNat / 256 = hi.toNat := by
    have := lo.isLt
    omega
  refine ⟨lo, hi, bus, ?_, ?_, ram⟩
  · rw [← word]
    exact toNat_indexed_ea _ _ _
  · rw [← word, ← page]
    exact indexed_crossed_iff _ _ _

/-- The high byte of JMP's pointer stays in the pointer's page (R88). -/
theorem toNat_pageWrap (p : Word) :
    (wordOf (hiByte p) (loByte p + 1)).toNat = p.toNat / 256 * 256 + (p.toNat + 1) % 256 := by
  simp [toNat_wordOf, toNat_hiByte, toNat_loByte]

/-- Settles O44: JMP retires at its operand, or at the word read at its pointer. -/
theorem jumpsSetPC : Obligations.JumpsSetPC := by
  refine ⟨fun a s => ⟨rfl, s.retire a .jmp .absolute 0, rfl, rfl, rfl, ⟨rfl, rfl, rfl, rfl, rfl⟩, rfl, fun _ => rfl,
    costs_retire rfl a .jmp .absolute 0⟩, fun p s => ⟨rfl, ?_⟩⟩
  obtain ⟨lo, hi, bus, word, ram⟩ := s.portReadWord_bytes rfl (toNat_pageWrap p)
  rw [BitVec.ofNat_toNat, BitVec.setWidth_eq] at bus
  exact ⟨(s.indirectTarget p).2.retire (s.indirectTarget p).1 .jmp .indirect 0, lo, hi, rfl, bus, word, ram,
    ⟨rfl, rfl, rfl, rfl, rfl⟩, rfl, fun _ => rfl, costs_retire rfl _ .jmp .indirect 0⟩

end Sys2Proof.Machine

/-! PROOFS for 41_load_store_transfer.md: O27 to O30. What a read, a store and an Implied instruction do besides their own
effect is said once for each shape, and what `setNZ` does to P once in the words of the statements; a load, store or
transfer then adds the register it writes. -/
namespace Sys2Proof.Machine

open Sys2Proof.Claims

/-! N and Z of a result (R27). -/

theorem flagsNZ_setNZ (p v : Byte) : FlagsNZ v.toNat (setNZ p v) := by
  refine ⟨?_, ?_⟩
  · rw [setNZ, getFlag_setFlag_other _ _ (by decide), getFlag_setFlag_same, Bool.eq_iff_iff]
    simp [← BitVec.toNat_inj]
  · rw [setNZ, getFlag_setFlag_same]
    exact BitVec.msb_eq_decide v

theorem bitsKept_setNZ {p q : Byte} (same : q = p) (v : Byte) : BitsKept [1, 7] p (setNZ q v) := by
  intro k _ kept
  obtain ⟨notZ, notN⟩ : k ≠ 1 ∧ k ≠ 7 := by simpa using kept
  rw [getLsbD_setNZ, if_neg notN, if_neg notZ, same]

/-! What every instruction of a shape does besides its own effect on the registers. -/

/-- From `s` to `t` no access of the Memory Port is made and no parameter changes. -/
structure NoAccess (s t : State) : Prop where
  cfg : t.cfg = s.cfg
  mem : t.mem = s.mem
  bus : t.bus = s.bus

theorem memoryKept_of_mem_eq {s t : State} (mem : t.mem = s.mem) : MemoryKept s t := fun a =>
  congrArg (memRead · a.toNat) mem

theorem readInstr_readStep (o : Operand) {f : Byte → State → State} (sp : ∀ v t, (f v t).sp = t.sp)
    (effect : ∀ v t, NoAccess t (f v t)) (s : State) : ReadStep o s (readInstr o f s) := by
  obtain ⟨cfg, mem, bus⟩ := effect (loadOperand o s).value (loadOperand o s).state
  exact ⟨toNat_nextPC s o.mode, (sp _ _).trans (loadOperand_sp o s), cfg.trans (loadOperand_cfg o s),
    memoryKept_of_mem_eq (mem.trans (loadOperand_mem o s)), bus,
    readInstr_costs o (fun v t => (effect v t).cfg) s⟩

theorem storeInstr_bus (o : Operand) (v : Byte) (s : State) :
    (storeInstr o v s).bus = (resolve o s).state.bus ++ [.write (resolve o s).ea v] := rfl

theorem storeInstr_stored (o : Operand) (v : Byte) (s : State) : Stored (resolve o s).ea v s (storeInstr o v s) := by
  intro canonical
  rw [storeInstr_mem]
  exact memRead_memWrite_same v canonical

theorem storeInstr_memoryKeptBut (o : Operand) (v : Byte) (s : State) :
    MemoryKeptBut [(resolve o s).ea] s (storeInstr o v s) := by
  intro a other
  rw [storeInstr_mem]
  exact memRead_memWrite_word_other v s.mem (List.ne_of_not_mem_cons other)

theorem storeInstr_storeStep (o : Operand) (v : Byte) (s : State) : StoreStep o v s (storeInstr o v s) :=
  ⟨toNat_nextPC s o.mode, storeInstr_a o v s, storeInstr_x o v s, storeInstr_y o v s, storeInstr_sp o v s,
    storeInstr_p o v s, storeInstr_cfg o v s, storeInstr_stored o v s, storeInstr_memoryKeptBut o v s,
    storeInstr_bus o v s, storeInstr_costs o v s⟩

theorem impliedInstr_impliedStep {f : State → State} (effect : ∀ t, NoAccess t (f t)) (s : State) :
    ImpliedStep s (impliedInstr f s) :=
  ⟨toNat_nextPC s .implied, (effect s).cfg, memoryKept_of_mem_eq (effect s).mem, (effect s).bus,
    impliedInstr_costs (fun t => (effect t).cfg) s⟩

/-- The same for an effect that writes `setNZ` of the byte `v` to P (R27). -/
theorem impliedInstr_setNZ {f : State → State} {s : State} {v : Byte} (nz : (f s).p = setNZ s.p v)
    (effect : ∀ t, NoAccess t (f t)) :
    FlagsNZ v.toNat (impliedInstr f s).p ∧ BitsKept [1, 7] s.p (impliedInstr f s).p ∧
      ImpliedStep s (impliedInstr f s) := by
  refine ⟨?_, ?_, impliedInstr_impliedStep effect s⟩ <;> rw [impliedInstr, State.retire_p, nz]
  · exact flagsNZ_setNZ s.p v
  · exact bitsKept_setNZ rfl v

/-! O27 to O30. -/

/-- Settles O27: each load is a read that writes its register and `setNZ` of the operand's byte. -/
theorem loadsReadTheOperand : Obligations.LoadsReadTheOperand := by
  intro o s
  have flags := flagsNZ_setNZ (loadOperand o s).state.p (value o s)
  have bits := bitsKept_setNZ (loadOperand_p o s) (value o s)
  refine ⟨⟨rfl, rfl, rfl⟩, ⟨_, rfl, rfl, flags, bits, ?_⟩, ⟨_, rfl, rfl, flags, bits, ?_⟩,
    ⟨_, rfl, rfl, flags, bits, ?_⟩⟩
  · exact ⟨loadOperand_x o s, loadOperand_y o s, readInstr_readStep o (fun _ _ => rfl) (fun _ _ => ⟨rfl, rfl, rfl⟩) s⟩
  · exact ⟨loadOperand_a o s, loadOperand_y o s, readInstr_readStep o (fun _ _ => rfl) (fun _ _ => ⟨rfl, rfl, rfl⟩) s⟩
  · exact ⟨loadOperand_a o s, loadOperand_x o s, readInstr_readStep o (fun _ _ => rfl) (fun _ _ => ⟨rfl, rfl, rfl⟩) s⟩

/-- Settles O28: each store is the shape of a store with its register's value. -/
theorem storesWriteTheRegister : Obligations.StoresWriteTheRegister := fun o s =>
  ⟨⟨rfl, rfl, rfl⟩, ⟨_, rfl, storeInstr_storeStep o s.a s⟩, ⟨_, rfl, storeInstr_storeStep o s.x s⟩,
    ⟨_, rfl, storeInstr_storeStep o s.y s⟩⟩

/-- Settles O29: each transfer writes its destination and `setNZ` of the source's value. -/
theorem transfersSetNZ : Obligations.TransfersSetNZ := fun _ =>
  ⟨⟨rfl, rfl, rfl, rfl, rfl⟩,
    ⟨_, rfl, rfl, rfl, rfl, rfl, impliedInstr_setNZ rfl fun _ => ⟨rfl, rfl, rfl⟩⟩,
    ⟨_, rfl, rfl, rfl, rfl, rfl, impliedInstr_setNZ rfl fun _ => ⟨rfl, rfl, rfl⟩⟩,
    ⟨_, rfl, rfl, rfl, rfl, rfl, impliedInstr_setNZ rfl fun _ => ⟨rfl, rfl, rfl⟩⟩,
    ⟨_, rfl, rfl, rfl, rfl, rfl, impliedInstr_setNZ rfl fun _ => ⟨rfl, rfl, rfl⟩⟩,
    ⟨_, rfl, rfl, rfl, rfl, rfl, impliedInstr_setNZ rfl fun _ => ⟨rfl, rfl, rfl⟩⟩⟩

/-- Settles O30: TXS writes SP alone. -/
theorem txsWritesNoFlag : Obligations.TxsWritesNoFlag := fun s =>
  ⟨rfl, _, rfl, rfl, rfl, rfl, rfl, rfl, impliedInstr_impliedStep (fun _ => ⟨rfl, rfl, rfl⟩) s⟩

end Sys2Proof.Machine

/-! PROOFS for 42_arithmetic_logic.md: O31 to O39. The ALU is described once on numbers, with SUB as ADD of the complement
(R122), so that V has one description for both. Each shape of instruction on A, a register or memory is then described
once for every operation it can carry: what it writes, which bits of P it keeps, and what stays. -/
namespace Sys2Proof.Machine

open Sys2Proof.Claims

/-! The ALU on numbers (R121 to R123). -/

theorem addWithCarry_toNat (a b : Byte) (c : Bool) :
    (addWithCarry a b c).value.toNat = (a.toNat + b.toNat + c.toNat) % 256 := BitVec.toNat_ofNat _ 8

/-- The test of bit 7 by a mask, as the overflow formulas make it (R121). -/
theorem and_signMask_ne_zero (v : Byte) : (v &&& 0x80#8 != 0) = v.msb := by
  have mask : v &&& 0x80#8 = if v.getLsbD 7 then 0x80#8 else 0#8 := BitVec.and_twoPow v 7
  rw [mask, BitVec.msb_eq_getLsbD_last]
  cases v.getLsbD 7 <;> rfl

/-- ADD's V: the addends have the same sign and the result another (R121). -/
theorem addWithCarry_overflow (a b : Byte) (c : Bool) :
    (addWithCarry a b c).overflow = decide (a.msb = b.msb ∧ (addWithCarry a b c).value.msb ≠ a.msb) := by
  have masked : (addWithCarry a b c).overflow =
      ((a ^^^ (addWithCarry a b c).value) &&& (b ^^^ (addWithCarry a b c).value)).msb := and_signMask_ne_zero _
  rw [masked, BitVec.msb_and, BitVec.msb_xor, BitVec.msb_xor]
  generalize (addWithCarry a b c).value.msb = r
  cases a.msb <;> cases b.msb <;> cases r <;> rfl

theorem subWithBorrow_toNat (a b : Byte) (c : Bool) :
    ((subWithBorrow a b c).value.toNat : Int) = ((a.toNat : Int) - b.toNat - (1 - (c.toNat : Int))) % 256 := by
  rw [subWithBorrow, BitVec.toNat_ofInt]
  omega

/-- SUB is ADD of the complemented operand: `~b = 255 - b`, so the difference is the sum less 256 (R122). -/
theorem subWithBorrow_eq_addWithCarry_not (a b : Byte) (c : Bool) : subWithBorrow a b c = addWithCarry a (~~~b) c := by
  have complement : (~~~b).toNat = 255 - b.toNat := BitVec.toNat_not
  have := b.isLt
  have value : (subWithBorrow a b c).value = (addWithCarry a (~~~b) c).value := by
    have sub := subWithBorrow_toNat a b c
    have add := addWithCarry_toNat a (~~~b) c
    exact BitVec.eq_of_toNat_eq (by omega)
  have carry : (subWithBorrow a b c).carry = (addWithCarry a (~~~b) c).carry :=
    decide_eq_decide.mpr (by omega)
  have overflow : (subWithBorrow a b c).overflow = (addWithCarry a (~~~b) c).overflow := by
    have masked : (subWithBorrow a b c).overflow = ((a ^^^ b) &&& (a ^^^ (subWithBorrow a b c).value)).msb :=
      and_signMask_ne_zero _
    rw [masked, value, addWithCarry_overflow, BitVec.msb_and, BitVec.msb_xor, BitVec.msb_xor, BitVec.msb_not]
    generalize (addWithCarry a (~~~b) c).value.msb = r
    cases a.msb <;> cases b.msb <;> cases r <;> rfl
  calc subWithBorrow a b c
    _ = ⟨(subWithBorrow a b c).value, (subWithBorrow a b c).carry, (subWithBorrow a b c).overflow⟩ := rfl
    _ = addWithCarry a (~~~b) c := by rw [value, carry, overflow]

/-- SUB's V: the operands have different signs and the result another sign than the first (R122). -/
theorem subWithBorrow_overflow (a b : Byte) (c : Bool) :
    (subWithBorrow a b c).overflow = decide (a.msb ≠ b.msb ∧ (subWithBorrow a b c).value.msb ≠ a.msb) := by
  rw [subWithBorrow_eq_addWithCarry_not, addWithCarry_overflow, BitVec.msb_not]
  exact decide_eq_decide.mpr (and_congr_left' Bool.eq_not)

theorem toNat_sub_byte (a b : Byte) : (a - b).toNat = (a.toNat + 256 - b.toNat) % 256 := by
  have := b.isLt
  rw [BitVec.toNat_sub]
  congr 1
  omega

theorem toNat_increment (v : Byte) : (v + 1).toNat = (v.toNat + 1) % 256 := BitVec.toNat_add v 1

theorem toNat_decrement (v : Byte) : (v - 1).toNat = (v.toNat + 255) % 256 := toNat_sub_byte v 1

/-! The bits of P an instruction keeps (R28). -/

theorem bitsKept_of_eq {written : List Nat} {p q : Byte} (same : q = p) : BitsKept written p q := fun _ _ _ => by rw [same]

theorem bitsKept_setFlag {written : List Nat} {p q : Byte} {f : Flag} (listed : f.bit ∈ written) (b : Bool)
    (h : BitsKept written p q) : BitsKept written p (setFlag q f b) := by
  intro k lt kept
  have other : k ≠ f.bit := fun eq => kept (eq ▸ listed)
  rw [getLsbD_setFlag, if_neg other]
  exact h k lt kept

theorem bitsKept_setNZ_of_kept {written : List Nat} {p q : Byte} (z : 1 ∈ written) (n : 7 ∈ written) (v : Byte)
    (h : BitsKept written p q) : BitsKept written p (setNZ q v) :=
  bitsKept_setFlag (f := .negative) n _ (bitsKept_setFlag (f := .zero) z _ h)

theorem getFlag_setNZ_other {f : Flag} (p v : Byte) (notZ : f ≠ .zero) (notN : f ≠ .negative) :
    getFlag (setNZ p v) f = getFlag p f := by
  rw [setNZ, getFlag_setFlag_other _ _ notN, getFlag_setFlag_other _ _ notZ]

theorem getFlag_arithmeticFlags_carry (p : Byte) (r : AluResult) : getFlag (arithmeticFlags p r) .carry = r.carry := by
  rw [arithmeticFlags, getFlag_setNZ_other _ _ (by decide) (by decide), getFlag_setFlag_other _ _ (by decide),
    getFlag_setFlag_same]

theorem getFlag_arithmeticFlags_overflow (p : Byte) (r : AluResult) :
    getFlag (arithmeticFlags p r) .overflow = r.overflow := by
  rw [arithmeticFlags, getFlag_setNZ_other _ _ (by decide) (by decide), getFlag_setFlag_same]

theorem bitsKept_arithmeticFlags (p : Byte) (r : AluResult) : BitsKept [0, 1, 6, 7] p (arithmeticFlags p r) :=
  bitsKept_setNZ_of_kept (by decide) (by decide) _ <| bitsKept_setFlag (by decide) _ <|
    bitsKept_setFlag (by decide) _ <| bitsKept_of_eq rfl

theorem getFlag_compareFlags_carry (p a b : Byte) :
    getFlag (compareFlags p a b) .carry = decide (b.toNat ≤ a.toNat) := by
  rw [compareFlags, getFlag_setNZ_other _ _ (by decide) (by decide), getFlag_setFlag_same]

theorem flagsNZ_compareFlags (p a b : Byte) :
    FlagsNZ ((a.toNat + 256 - b.toNat) % 256) (compareFlags p a b) := by
  rw [← toNat_sub_byte]
  exact flagsNZ_setNZ _ (a - b)

/-- The 8-bit difference is 0 exactly where the two bytes are equal (R123). -/
theorem getFlag_compareFlags_zero (p a b : Byte) : getFlag (compareFlags p a b) .zero = decide (a = b) := by
  have := a.isLt
  have := b.isLt
  rw [(flagsNZ_compareFlags p a b).1, decide_eq_decide, ← BitVec.toNat_inj]
  omega

theorem bitsKept_compareFlags (p a b : Byte) : BitsKept [0, 1, 7] p (compareFlags p a b) :=
  bitsKept_setNZ_of_kept (by decide) (by decide) _ <| bitsKept_setFlag (by decide) _ <| bitsKept_of_eq rfl

theorem getFlag_bitTestFlags_zero (p a b : Byte) : getFlag (bitTestFlags p a b) .zero = decide (a &&& b = 0) := by
  rw [bitTestFlags, getFlag_setFlag_other _ _ (by decide), getFlag_setFlag_other _ _ (by decide), getFlag_setFlag_same]
  exact beq_eq_decide _ _

theorem getFlag_bitTestFlags_negative (p a b : Byte) : getFlag (bitTestFlags p a b) .negative = b.getLsbD 7 := by
  rw [bitTestFlags, getFlag_setFlag_other _ _ (by decide), getFlag_setFlag_same]

theorem getFlag_bitTestFlags_overflow (p a b : Byte) : getFlag (bitTestFlags p a b) .overflow = b.getLsbD 6 := by
  rw [bitTestFlags, getFlag_setFlag_same]

theorem bitsKept_bitTestFlags (p a b : Byte) : BitsKept [1, 6, 7] p (bitTestFlags p a b) :=
  bitsKept_setFlag (by decide) _ <| bitsKept_setFlag (by decide) _ <| bitsKept_setFlag (by decide) _ <|
    bitsKept_of_eq rfl

/-! O31 and O32. -/

/-- ADC and SBC in one: the instruction that runs the ALU operation `alu` on A, the operand and C (R130, R131). -/
def arithmeticInstr (alu : Byte → Byte → Bool → AluResult) (o : Operand) (s : State) : State :=
  readInstr o (fun m t =>
    (t.setA (alu t.a m (getFlag t.p .carry)).value).setP (arithmeticFlags t.p (alu t.a m (getFlag t.p .carry)))) s

theorem exec_adc (o : Operand) (s : State) : exec (.adc o) s = .next (arithmeticInstr addWithCarry o s) := rfl

theorem exec_sbc (o : Operand) (s : State) : exec (.sbc o) s = .next (arithmeticInstr subWithBorrow o s) := rfl

section Arithmetic

variable (alu : Byte → Byte → Bool → AluResult) (o : Operand) (s : State)

theorem arithmeticInstr_a : (arithmeticInstr alu o s).a = (alu s.a (value o s) (getFlag s.p .carry)).value := by
  rw [value, arithmeticInstr, readInstr_eq, State.retire_a, State.setP_a, State.setA_a, loadOperand_a, loadOperand_p]

theorem arithmeticInstr_p :
    (arithmeticInstr alu o s).p = arithmeticFlags s.p (alu s.a (value o s) (getFlag s.p .carry)) := by
  rw [value, arithmeticInstr, readInstr_eq, State.retire_p, State.setP_p, loadOperand_a, loadOperand_p]

/-- What ADC and SBC do besides the values they write to A, C and V. -/
theorem arithmeticInstr_frame :
    FlagsNZ (arithmeticInstr alu o s).a.toNat (arithmeticInstr alu o s).p ∧
      BitsKept [0, 1, 6, 7] s.p (arithmeticInstr alu o s).p ∧ (arithmeticInstr alu o s).x = s.x ∧
      (arithmeticInstr alu o s).y = s.y ∧ ReadStep o s (arithmeticInstr alu o s) := by
  refine ⟨?_, ?_, loadOperand_x o s, loadOperand_y o s,
    readInstr_readStep o (fun _ _ => rfl) (fun _ _ => ⟨rfl, rfl, rfl⟩) s⟩
  · rw [arithmeticInstr_a, arithmeticInstr_p]
    exact flagsNZ_setNZ _ _
  · rw [arithmeticInstr_p]
    exact bitsKept_arithmeticFlags _ _

end Arithmetic

/-- Settles O31: ADC writes the result of ADD and its flags. -/
theorem adcAddsWithCarry : Obligations.AdcAddsWithCarry := by
  refine fun o s => ⟨rfl, _, exec_adc o s, ?_, ?_, ?_, arithmeticInstr_frame addWithCarry o s⟩
  · rw [arithmeticInstr_a, addWithCarry_toNat]
  · rw [arithmeticInstr_p, getFlag_arithmeticFlags_carry]
    rfl
  · rw [arithmeticInstr_p, getFlag_arithmeticFlags_overflow, arithmeticInstr_a, addWithCarry_overflow]

/-- Settles O32: SBC writes the result of SUB and its flags. -/
theorem sbcSubtractsWithBorrow : Obligations.SbcSubtractsWithBorrow := by
  refine fun o s => ⟨rfl, _, exec_sbc o s, ?_, ?_, ?_, arithmeticInstr_frame subWithBorrow o s⟩
  · rw [arithmeticInstr_a, subWithBorrow_toNat]
  · rw [arithmeticInstr_p, getFlag_arithmeticFlags_carry]
    rfl
  · rw [arithmeticInstr_p, getFlag_arithmeticFlags_overflow, arithmeticInstr_a, subWithBorrow_overflow]

/-! O33. -/

/-- ADD's V is signed overflow (R128): the result differs from the signed sum by 256 just where the signs say so. -/
theorem addWithCarry_overflow_iff (a b : Byte) (c : Bool) :
    (addWithCarry a b c).overflow = true ↔
      ¬ (-128 ≤ a.toInt + b.toInt + (c.toNat : Int) ∧ a.toInt + b.toInt + (c.toNat : Int) ≤ 127) := by
  have sum := addWithCarry_toNat a b c
  have := c.toNat_lt
  have := a.isLt
  have := b.isLt
  rw [addWithCarry_overflow, decide_eq_true_iff]
  simp only [BitVec.msb_eq_decide, BitVec.toInt_eq_toNat_cond, ne_eq, decide_eq_decide]
  omega

theorem toInt_not_byte (b : Byte) : (~~~b).toInt = -b.toInt - 1 := by
  have complement : (~~~b).toNat = 255 - b.toNat := BitVec.toNat_not
  have := b.isLt
  rw [BitVec.toInt_eq_toNat_cond, BitVec.toInt_eq_toNat_cond, complement]
  omega

/-- SUB's V is signed overflow (R128), since the signed value of `~b` is `-b - 1`. -/
theorem subWithBorrow_overflow_iff (a b : Byte) (c : Bool) :
    (subWithBorrow a b c).overflow = true ↔
      ¬ (-128 ≤ a.toInt - b.toInt - (1 - (c.toNat : Int)) ∧ a.toInt - b.toInt - (1 - (c.toNat : Int)) ≤ 127) := by
  rw [subWithBorrow_eq_addWithCarry_not, addWithCarry_overflow_iff, toInt_not_byte]
  omega

/-- Settles O33: V is signed overflow for both, and SUB is ADD of the complement. -/
theorem overflowIsSigned : Obligations.OverflowIsSigned := fun a b c =>
  ⟨addWithCarry_overflow_iff a b c, subWithBorrow_overflow_iff a b c, subWithBorrow_eq_addWithCarry_not a b c⟩

/-! O34. -/

/-- SUB of the byte ADD has added, with the complementary carry, is the identity (R145). -/
theorem subWithBorrow_addWithCarry_not (a m : Byte) (c : Bool) :
    (subWithBorrow (addWithCarry a m c).value m (!c)).value = a := by
  have difference := subWithBorrow_toNat (addWithCarry a m c).value m (!c)
  have sum := addWithCarry_toNat a m c
  have := a.isLt
  apply BitVec.eq_of_toNat_eq
  cases c <;> simp only [Bool.not_false, Bool.not_true, Bool.toNat_false, Bool.toNat_true] at * <;> omega

/-- SUB of the byte ADD has added, with the same carry, is off by `2c - 1` (R145). -/
theorem subWithBorrow_addWithCarry_same (a m : Byte) (c : Bool) :
    ((subWithBorrow (addWithCarry a m c).value m c).value.toNat : Int) =
      ((a.toNat : Int) + 2 * (c.toNat : Int) - 1) % 256 := by
  rw [subWithBorrow_toNat, addWithCarry_toNat]
  omega

/-- Settles O34: SBC runs SUB on the value ADC left in A. -/
theorem sbcUndoesAdc : Obligations.SbcUndoesAdc := by
  intro o o' s t u h a m
  rw [exec_adc, Host.Outcome.next.injEq] at h
  subst h
  refine ⟨_, exec_sbc o' u, fun complementary => ?_, fun same => ?_⟩
  · rw [arithmeticInstr_a, a, m, complementary, arithmeticInstr_a]
    exact subWithBorrow_addWithCarry_not _ _ _
  · have off := subWithBorrow_addWithCarry_same s.a (value o s) (getFlag s.p .carry)
    rw [arithmeticInstr_a, a, m, same, arithmeticInstr_a]
    refine ⟨off, fun eq => ?_⟩
    rw [eq] at off
    have := (getFlag s.p .carry).toNat_lt
    omega

/-! O35. -/

/-- AND, ORA and EOR in one: the instruction that leaves `op` of A and the operand in A (R132 to R134). -/
def logicInstr (op : Byte → Byte → Byte) (o : Operand) (s : State) : State :=
  readInstr o (fun m t => (t.setA (op t.a m)).withNZ (op t.a m)) s

theorem exec_and (o : Operand) (s : State) : exec (.and o) s = .next (logicInstr (· &&& ·) o s) := rfl

theorem exec_ora (o : Operand) (s : State) : exec (.ora o) s = .next (logicInstr (· ||| ·) o s) := rfl

theorem exec_eor (o : Operand) (s : State) : exec (.eor o) s = .next (logicInstr (· ^^^ ·) o s) := rfl

section Logic

variable (op : Byte → Byte → Byte) (o : Operand) (s : State)

theorem logicInstr_a : (logicInstr op o s).a = op s.a (value o s) := by
  rw [← loadOperand_a o s]
  rfl

theorem logicInstr_p : (logicInstr op o s).p = setNZ s.p (op s.a (value o s)) := by
  rw [← loadOperand_a o s, ← loadOperand_p o s]
  rfl

/-- What AND, ORA and EOR do besides the value they write to A. -/
theorem logicInstr_frame :
    FlagsNZ (logicInstr op o s).a.toNat (logicInstr op o s).p ∧ BitsKept [1, 7] s.p (logicInstr op o s).p ∧
      (logicInstr op o s).x = s.x ∧ (logicInstr op o s).y = s.y ∧ ReadStep o s (logicInstr op o s) := by
  rw [logicInstr_a, logicInstr_p]
  exact ⟨flagsNZ_setNZ _ _, bitsKept_setNZ rfl _, loadOperand_x o s, loadOperand_y o s,
    readInstr_readStep o (fun _ _ => rfl) (fun _ _ => ⟨rfl, rfl, rfl⟩) s⟩

end Logic

/-- Settles O35: each bit of A is that of the operation. -/
theorem logicOnTheAccumulator : Obligations.LogicOnTheAccumulator := by
  refine fun o s => ⟨⟨rfl, rfl, rfl⟩, ⟨_, exec_and o s, fun k => ?_, logicInstr_frame _ o s⟩,
    ⟨_, exec_ora o s, fun k => ?_, logicInstr_frame _ o s⟩, ⟨_, exec_eor o s, fun k => ?_, logicInstr_frame _ o s⟩⟩
  · rw [logicInstr_a, BitVec.getLsbD_and]
  · rw [logicInstr_a, BitVec.getLsbD_or]
  · rw [logicInstr_a, BitVec.getLsbD_xor]

/-! O36 and O37. -/

/-- CMP, CPX, CPY and BIT in one: the instruction that writes P alone, as `flags` says from P, a register and the operand
(R135 to R138). -/
def testInstr (flags : Byte → Byte → Byte → Byte) (register : State → Byte) (o : Operand) (s : State) : State :=
  readInstr o (fun m t => t.setP (flags t.p (register t) m)) s

theorem exec_cmp (o : Operand) (s : State) : exec (.cmp o) s = .next (testInstr compareFlags State.a o s) := rfl

theorem exec_cpx (o : Operand) (s : State) : exec (.cpx o) s = .next (testInstr compareFlags State.x o s) := rfl

theorem exec_cpy (o : Operand) (s : State) : exec (.cpy o) s = .next (testInstr compareFlags State.y o s) := rfl

theorem exec_bit (o : Operand) (s : State) : exec (.bit o) s = .next (testInstr bitTestFlags State.a o s) := rfl

section Tests

variable (flags : Byte → Byte → Byte → Byte) {register : State → Byte} {o : Operand} {s : State}

theorem testInstr_p (kept : register (loadOperand o s).state = register s) :
    (testInstr flags register o s).p = flags s.p (register s) (value o s) := by
  rw [← kept, ← loadOperand_p o s]
  rfl

/-- What an instruction that only tests its operand does besides the flags it writes. -/
theorem testInstr_frame :
    (testInstr flags register o s).a = s.a ∧ (testInstr flags register o s).x = s.x ∧
      (testInstr flags register o s).y = s.y ∧ ReadStep o s (testInstr flags register o s) :=
  ⟨loadOperand_a o s, loadOperand_x o s, loadOperand_y o s,
    readInstr_readStep o (fun _ _ => rfl) (fun _ _ => ⟨rfl, rfl, rfl⟩) s⟩

/-- A comparison of a register that loading the operand keeps (R123). -/
theorem testInstr_compareFlags (kept : register (loadOperand o s).state = register s) :
    getFlag (testInstr compareFlags register o s).p .carry = decide ((value o s).toNat ≤ (register s).toNat) ∧
      getFlag (testInstr compareFlags register o s).p .zero = decide (register s = value o s) ∧
      FlagsNZ (((register s).toNat + 256 - (value o s).toNat) % 256) (testInstr compareFlags register o s).p ∧
      BitsKept [0, 1, 7] s.p (testInstr compareFlags register o s).p := by
  rw [testInstr_p compareFlags kept]
  exact ⟨getFlag_compareFlags_carry _ _ _, getFlag_compareFlags_zero _ _ _, flagsNZ_compareFlags _ _ _,
    bitsKept_compareFlags _ _ _⟩

end Tests

/-- Settles O36: the three compares differ in their register. -/
theorem comparesKeepTheRegister : Obligations.ComparesKeepTheRegister := by
  intro o s
  obtain ⟨carryA, zeroA, nzA, bitsA⟩ := testInstr_compareFlags (loadOperand_a o s)
  obtain ⟨carryX, zeroX, nzX, bitsX⟩ := testInstr_compareFlags (loadOperand_x o s)
  obtain ⟨carryY, zeroY, nzY, bitsY⟩ := testInstr_compareFlags (loadOperand_y o s)
  exact ⟨⟨rfl, rfl, rfl⟩, ⟨_, exec_cmp o s, carryA, zeroA, nzA, bitsA, testInstr_frame compareFlags⟩,
    ⟨_, exec_cpx o s, carryX, zeroX, nzX, bitsX, testInstr_frame compareFlags⟩,
    ⟨_, exec_cpy o s, carryY, zeroY, nzY, bitsY, testInstr_frame compareFlags⟩⟩

/-- Settles O37: BIT writes the flags of the bit test. -/
theorem bitTestsTheOperand : Obligations.BitTestsTheOperand := by
  intro o s
  have p := testInstr_p bitTestFlags (loadOperand_a o s)
  refine ⟨rfl, _, exec_bit o s, ?_, ?_, ?_, ?_, testInstr_frame bitTestFlags⟩ <;> rw [p]
  · exact getFlag_bitTestFlags_zero _ _ _
  · exact getFlag_bitTestFlags_negative _ _ _
  · exact getFlag_bitTestFlags_overflow _ _ _
  · exact bitsKept_bitTestFlags _ _ _

/-! O38 and O39. -/

theorem modifyMemory_bus (o : Operand) (f : Byte → Byte → Byte × Byte) (s : State) :
    (modifyMemory o f s).bus = (resolve o s).state.bus ++
      [.read (resolve o s).ea (oldByte o s), .write (resolve o s).ea (f (oldByte o s) s.p).1] :=
  List.append_assoc (resolve o s).state.bus [_] [_]

theorem modifyMemory_stored (o : Operand) (f : Byte → Byte → Byte × Byte) (s : State) :
    Stored (resolve o s).ea (f (oldByte o s) s.p).1 s (modifyMemory o f s) := by
  intro canonical
  rw [modifyMemory_mem]
  exact memRead_memWrite_same _ canonical

theorem modifyMemory_memoryKeptBut (o : Operand) (f : Byte → Byte → Byte × Byte) (s : State) :
    MemoryKeptBut [(resolve o s).ea] s (modifyMemory o f s) := by
  intro a other
  rw [modifyMemory_mem]
  exact memRead_memWrite_word_other _ s.mem (List.ne_of_not_mem_cons other)

theorem modifyMemory_modifyStep (o : Operand) (f : Byte → Byte → Byte × Byte) (s : State) :
    ModifyStep o (f (oldByte o s) s.p).1 s (modifyMemory o f s) :=
  ⟨toNat_nextPC s o.mode, modifyMemory_a o f s, modifyMemory_x o f s, modifyMemory_y o f s, modifyMemory_sp o f s,
    modifyMemory_cfg o f s, modifyMemory_stored o f s, modifyMemory_memoryKeptBut o f s, modifyMemory_bus o f s,
    modifyMemory_costs o f s⟩

/-- A read-modify-write instruction that writes `setNZ` of its result to P (R27). -/
theorem modifyMemory_setNZ (o : Operand) (new : Byte → Byte) (s : State) :
    FlagsNZ (new (oldByte o s)).toNat (modifyMemory o (fun v p => (new v, setNZ p (new v))) s).p ∧
      BitsKept [1, 7] s.p (modifyMemory o (fun v p => (new v, setNZ p (new v))) s).p ∧
      ModifyStep o (new (oldByte o s)) s (modifyMemory o (fun v p => (new v, setNZ p (new v))) s) := by
  refine ⟨?_, ?_, modifyMemory_modifyStep o _ s⟩ <;> rw [modifyMemory_p]
  · exact flagsNZ_setNZ _ _
  · exact bitsKept_setNZ rfl _

/-- Settles O38: the new byte is the old one plus or minus 1. -/
theorem incrementsOfMemory : Obligations.IncrementsOfMemory := fun o s =>
  ⟨⟨rfl, rfl⟩, ⟨_, oldByte o s + 1, rfl, toNat_increment _, modifyMemory_setNZ o (· + 1) s⟩,
    ⟨_, oldByte o s - 1, rfl, toNat_decrement _, modifyMemory_setNZ o (· - 1) s⟩⟩

/-- Settles O39: each writes its register and `setNZ` of the new value. -/
theorem incrementsOfRegisters : Obligations.IncrementsOfRegisters := fun s =>
  ⟨⟨rfl, rfl, rfl, rfl⟩,
    ⟨_, rfl, toNat_increment s.x, rfl, rfl, rfl, impliedInstr_setNZ rfl fun _ => ⟨rfl, rfl, rfl⟩⟩,
    ⟨_, rfl, toNat_increment s.y, rfl, rfl, rfl, impliedInstr_setNZ rfl fun _ => ⟨rfl, rfl, rfl⟩⟩,
    ⟨_, rfl, toNat_decrement s.x, rfl, rfl, rfl, impliedInstr_setNZ rfl fun _ => ⟨rfl, rfl, rfl⟩⟩,
    ⟨_, rfl, toNat_decrement s.y, rfl, rfl, rfl, impliedInstr_setNZ rfl fun _ => ⟨rfl, rfl, rfl⟩⟩⟩

end Sys2Proof.Machine


/-! PROOFS for 43_shift_rotate.md: O40 to O42. The four instructions are one shape, described once for either
operand. ROL A turns the 9-bit word of C and A by one bit, so that nine of them are one full turn. -/
namespace Sys2Proof.Machine

open Sys2Proof.Claims

/-! The shifter on numbers (R150 to R153). -/

theorem shiftLeft_toNat (v : Byte) : (shiftLeft v).value.toNat = 2 * v.toNat % 256 := by
  rw [shiftLeft, BitVec.toNat_shiftLeft, Nat.shiftLeft_eq, Nat.mul_comm]

theorem shiftRight_toNat (v : Byte) : (shiftRight v).value.toNat = v.toNat / 2 := by
  rw [shiftRight, BitVec.toNat_ushiftRight, Nat.shiftRight_eq_div_pow, Nat.pow_one]

/-- ROL moves the carry in behind bit 0 (R152). -/
theorem rotateLeft_value (v : Byte) (c : Bool) : (rotateLeft v c).value = v.shiftConcat c := by
  refine status_ext fun k hk => ?_
  have carryIn : BitVec.getLsbD (w := 8) (if c then 0x01 else 0x00) k = (decide (k = 0) && c) := by
    cases c <;> simp [BitVec.getLsbD_one]
  rw [rotateLeft, BitVec.getLsbD_or, BitVec.getLsbD_shiftLeft, carryIn, BitVec.getLsbD_shiftConcat]
  cases k with
  | zero => simp
  | succ k => simp [hk]

theorem rotateLeft_toNat (v : Byte) (c : Bool) : (rotateLeft v c).value.toNat = (2 * v.toNat + c.toNat) % 256 := by
  rw [rotateLeft_value, BitVec.toNat_shiftConcat, Nat.shiftLeft_eq, Nat.mul_comm]

/-- ROR is the sum of the shifted byte and the carry at bit 7, which do not meet (R153). -/
theorem rotateRight_toNat (v : Byte) (c : Bool) :
    (rotateRight v c).value.toNat = v.toNat / 2 + 128 * c.toNat := by
  have half : v.toNat / 2 < 2 ^ 7 := by have := v.isLt; omega
  have carryIn : BitVec.toNat (w := 8) (if c then 0x80 else 0x00) = 2 ^ 7 * c.toNat := by cases c <;> rfl
  have disjoint := Nat.two_pow_add_eq_or_of_lt half c.toNat
  rw [rotateRight, BitVec.toNat_or, BitVec.toNat_ushiftRight, Nat.shiftRight_eq_div_pow, carryIn, Nat.or_comm,
    ← disjoint, Nat.add_comm]

/-! The flags of a shift. -/

theorem getFlag_shiftFlags_carry (p : Byte) (r : ShiftResult) : getFlag (shiftFlags p r) .carry = r.carry := by
  rw [shiftFlags, getFlag_setNZ_other _ _ (by decide) (by decide), getFlag_setFlag_same]

theorem bitsKept_shiftFlags (p : Byte) (r : ShiftResult) : BitsKept [0, 1, 7] p (shiftFlags p r) :=
  bitsKept_setNZ_of_kept (by decide) (by decide) _ <| bitsKept_setFlag (by decide) _ <| bitsKept_of_eq rfl

/-! O40 and O41. -/

/-- ASL, LSR, ROL and ROR in one: the instruction that runs the shifter operation `op` on its operand and C (R150 to
R153). -/
def shiftInstr (op : Byte → Bool → ShiftResult) (o : ShiftOperand) (s : State) : State :=
  modifyInstr o (fun v p => shifted p (op v (getFlag p .carry))) s

theorem exec_asl (o : ShiftOperand) (s : State) :
    exec (.asl o) s = .next (shiftInstr (fun v _ => shiftLeft v) o s) := rfl

theorem exec_lsr (o : ShiftOperand) (s : State) :
    exec (.lsr o) s = .next (shiftInstr (fun v _ => shiftRight v) o s) := rfl

theorem exec_rol (o : ShiftOperand) (s : State) : exec (.rol o) s = .next (shiftInstr rotateLeft o s) := rfl

theorem exec_ror (o : ShiftOperand) (s : State) : exec (.ror o) s = .next (shiftInstr rotateRight o s) := rfl

section Shift

variable (op : Byte → Bool → ShiftResult) (o : ShiftOperand) (s : State)

theorem shiftInstr_p : (shiftInstr op o s).p = shiftFlags s.p (op (shiftSource o s) (getFlag s.p .carry)) := by
  cases o with
  | acc => rfl
  | mem o => exact modifyMemory_p o _ s

/-- A shift writes the operation's result, its carry, and N and Z, and nothing else. -/
theorem shiftInstr_shiftStep :
    ShiftStep o (op (shiftSource o s) (getFlag s.p .carry)).value (op (shiftSource o s) (getFlag s.p .carry)).carry s
      (shiftInstr op o s) := by
  refine ⟨?_, ?_, ?_, ?_⟩
  · rw [shiftInstr_p, getFlag_shiftFlags_carry]
  · rw [shiftInstr_p]
    exact flagsNZ_setNZ _ _
  · rw [shiftInstr_p]
    exact bitsKept_shiftFlags _ _
  · cases o with
    | acc =>
      exact ⟨rfl, rfl, rfl, rfl, rfl, memoryKept_of_mem_eq rfl, rfl, toNat_nextPC s .accumulator,
        modifyInstr_costs .acc _ s⟩
    | mem o => exact modifyMemory_modifyStep o _ s

end Shift

/-- N after a shift is bit 7 of the result, as a number (R27). -/
theorem getFlag_negative_of_shiftStep {o : ShiftOperand} {r : Byte} {c : Bool} {s t : State}
    (h : ShiftStep o r c s t) : getFlag t.p .negative = decide (128 ≤ r.toNat) := by
  obtain ⟨-, ⟨-, negative⟩, -⟩ := h
  exact negative

/-- Settles O40: ASL doubles the operand, LSR halves it and so leaves bit 7 clear. -/
theorem shiftsByOne : Obligations.ShiftsByOne := by
  intro o s
  have right := shiftInstr_shiftStep (fun v _ => shiftRight v) o s
  refine ⟨⟨rfl, rfl⟩, ⟨_, _, exec_asl o s, shiftLeft_toNat _, shiftInstr_shiftStep _ o s⟩,
    ⟨_, _, exec_lsr o s, shiftRight_toNat _, ?_, right⟩⟩
  have := (shiftSource o s).isLt
  rw [getFlag_negative_of_shiftStep right, shiftRight_toNat, decide_eq_false_iff_not]
  omega

/-- Settles O41: both rotates take the old C in, ROR at bit 7, which is N. -/
theorem rotatesThroughCarry : Obligations.RotatesThroughCarry := by
  intro o s
  have right := shiftInstr_shiftStep rotateRight o s
  refine ⟨⟨rfl, rfl⟩, ⟨_, _, exec_rol o s, rotateLeft_toNat _ _, shiftInstr_shiftStep _ o s⟩,
    ⟨_, _, exec_ror o s, rotateRight_toNat _ _, ?_, right⟩⟩
  have := (shiftSource o s).isLt
  rw [getFlag_negative_of_shiftStep right, rotateRight_toNat]
  cases getFlag s.p .carry with
  | false => exact decide_eq_false (by simp only [Bool.toNat_false]; omega)
  | true => exact decide_eq_true (by simp only [Bool.toNat_true]; omega)

/-! O42. Turns of a word add up. -/

theorem bitVec_rotateLeft_zero {w : Nat} (x : BitVec w) : x.rotateLeft 0 = x := by
  refine BitVec.eq_of_getMsbD_eq fun k hk => ?_
  simp [BitVec.getMsbD_rotateLeft, hk, Nat.mod_eq_of_lt hk]

theorem bitVec_rotateLeft_rotateLeft {w : Nat} (x : BitVec w) (m n : Nat) :
    (x.rotateLeft m).rotateLeft n = x.rotateLeft (m + n) := by
  refine BitVec.eq_of_getMsbD_eq fun k hk => ?_
  have := Nat.mod_lt (n + k) (Nat.zero_lt_of_lt hk)
  simp [BitVec.getMsbD_rotateLeft, hk, this, Nat.add_assoc]

/-- C and A as one 9-bit word, C on top. -/
def carryWord (s : State) : BitVec 9 := BitVec.cons (getFlag s.p .carry) s.a

theorem a_and_carry_of_carryWord_eq {s t : State} (h : carryWord t = carryWord s) :
    t.a = s.a ∧ getFlag t.p .carry = getFlag s.p .carry := by
  have low := congrArg (BitVec.setWidth 8) h
  have top := congrArg BitVec.msb h
  simp only [carryWord, BitVec.setWidth_cons, BitVec.msb_cons] at low top
  exact ⟨low, top⟩

/-- ROL A turns the word by one bit (R152). -/
theorem carryWord_rol (s : State) : carryWord (shiftInstr rotateLeft .acc s) = (carryWord s).rotateLeft 1 := by
  obtain ⟨carry, -, -, a, -⟩ := shiftInstr_shiftStep rotateLeft .acc s
  rw [carryWord, a, carry, rotateLeft_value, carryWord]
  refine BitVec.eq_of_getLsbD_eq fun k hk => ?_
  simp only [BitVec.getLsbD_cons, BitVec.getLsbD_rotateLeft, BitVec.getLsbD_shiftConcat]
  by_cases top : k = 8
  · subst top
    rfl
  · have inA : k < 8 := by omega
    cases k with
    | zero => rfl
    | succ k =>
      have notTop : k ≠ 8 := by omega
      simp [top, inA, hk, notTop, shiftSource]

/-- ROL A repeated completes and turns the word by as many bits. -/
theorem repeatExec_rol (n : Nat) (s : State) :
    ∃ t, repeatExec (.rol .acc) n s = .next t ∧ carryWord t = (carryWord s).rotateLeft n := by
  induction n generalizing s with
  | zero => exact ⟨s, rfl, (bitVec_rotateLeft_zero _).symm⟩
  | succ n ih =>
    obtain ⟨t, run, turned⟩ := ih (shiftInstr rotateLeft .acc s)
    exact ⟨t, run, by rw [turned, carryWord_rol, bitVec_rotateLeft_rotateLeft, Nat.add_comm]⟩

/-- Settles O42: nine bits make one turn of the word. -/
theorem nineRotatesAreNone : Obligations.NineRotatesAreNone := by
  intro s
  obtain ⟨t, run, turned⟩ := repeatExec_rol 9 s
  have turn : (carryWord s).rotateLeft 9 = carryWord s :=
    BitVec.rotateLeft_mod_eq_rotateLeft.symm.trans (bitVec_rotateLeft_zero _)
  exact ⟨t, run, a_and_carry_of_carryWord_eq (turned.trans turn)⟩

end Sys2Proof.Machine

/-! PROOFS for 44_control_transfer.md: O43 and O45 to O47. The conditional branches are one shape, described once for
either value of the condition. The stack is described once in the words of the statements: what a push stores and keeps,
and which bytes a pulled word is made of. RTS undoes JSR because it pulls the slots that JSR stored to. -/
namespace Sys2Proof.Machine

open Sys2Proof.Claims

/-! O43. -/

theorem toNat_branchInstr_pc (taken : Bool) (d : Byte) (s : State) :
    (branchInstr taken d s).pc.toNat = if taken = true then branchTarget d s else branchNext s := by
  rw [branchInstr_pc]
  cases taken with
  | true => exact toNat_branchTarget d s
  | false => exact toNat_nextPC_relative s

theorem branchInstr_branchStep (taken : Bool) (d : Byte) (s : State) :
    BranchStep taken d s (branchInstr taken d s) :=
  ⟨toNat_branchInstr_pc taken d s, branchInstr_a taken d s, branchInstr_x taken d s, branchInstr_y taken d s,
    branchInstr_sp taken d s, branchInstr_p taken d s, branchInstr_cfg taken d s,
    memoryKept_of_mem_eq (branchInstr_mem taken d s), rfl, branchInstr_costs taken d s⟩

/-- Settles O43: each branch is the shape of a branch with its own flag. -/
theorem branchesOnFlags : Obligations.BranchesOnFlags := fun d s =>
  ⟨⟨rfl, rfl, rfl, rfl, rfl, rfl, rfl, rfl⟩,
    ⟨_, rfl, branchInstr_branchStep _ d s⟩, ⟨_, rfl, branchInstr_branchStep _ d s⟩,
    ⟨_, rfl, branchInstr_branchStep _ d s⟩, ⟨_, rfl, branchInstr_branchStep _ d s⟩,
    ⟨_, rfl, branchInstr_branchStep _ d s⟩, ⟨_, rfl, branchInstr_branchStep _ d s⟩,
    ⟨_, rfl, branchInstr_branchStep _ d s⟩, ⟨_, rfl, branchInstr_branchStep _ d s⟩⟩

/-! The stack page (R23, R45). -/

theorem toNat_stackAddress (sp : Byte) : (stackAddress sp).toNat = 256 + sp.toNat := by
  rw [stackAddress, BitVec.toNat_or, toNat_zext16]
  exact (Nat.two_pow_add_eq_or_of_lt (i := 8) sp.isLt 1).symm

/-- Two values of SP point at two slots. -/
theorem stackAddress_injective {sp sp' : Byte} (h : stackAddress sp = stackAddress sp') : sp = sp' := by
  have numbers := congrArg BitVec.toNat h
  rw [toNat_stackAddress, toNat_stackAddress] at numbers
  exact BitVec.eq_of_toNat_eq (Nat.add_left_cancel numbers)

/-- Only the remainder modulo 256 says which slot a number stands for. -/
theorem stackSlot_congr {m n : Nat} (mod : m % 256 = n % 256) : stackSlot m = stackSlot n := by
  rw [stackSlot, stackSlot, mod]

theorem stackAddress_eq_stackSlot {sp : Byte} {n : Nat} (mod : sp.toNat = n % 256) : stackAddress sp = stackSlot n := by
  refine BitVec.eq_of_toNat_eq ?_
  rw [toNat_stackAddress, stackSlot, BitVec.toNat_ofNat, mod]
  omega

/-! What a push stores and what it keeps (R45). -/

theorem stored_push {s t : State} (canonical : memWf s.mem = true → memWf t.mem = true) (v : Byte) :
    Stored (stackAddress t.sp) v s (t.push v) := by
  intro wf
  rw [State.push_mem]
  exact memRead_memWrite_same v (canonical wf)

/-- What stood stored in another slot still does after a push. -/
theorem stored_push_other {s t : State} {a : Word} {v : Byte} (stored : Stored a v s t)
    (other : a ≠ stackAddress t.sp) (w : Byte) : Stored a v s (t.push w) := by
  intro wf
  rw [State.push_mem, memRead_memWrite_word_other w t.mem other]
  exact stored wf

theorem memoryKeptBut_push {s t : State} {slots : List Word} (kept : MemoryKeptBut slots s t) (v : Byte) :
    MemoryKeptBut (slots ++ [stackAddress t.sp]) s (t.push v) := by
  intro a other
  obtain ⟨outside, ne⟩ : a ∉ slots ∧ a ≠ stackAddress t.sp := by simpa using other
  rw [State.push_mem, memRead_memWrite_word_other v t.mem ne]
  exact kept a outside

/-- The high byte of a pushed word is stored at SP and the low byte at SP - 1, nothing else (R43). -/
theorem pushWord_stored (s : State) (w : Word) :
    Stored (stackAddress s.sp) (hiByte w) s (s.pushWord w) ∧
    Stored (stackAddress (s.sp - 1)) (loByte w) s (s.pushWord w) ∧
    MemoryKeptBut [stackAddress s.sp, stackAddress (s.sp - 1)] s (s.pushWord w) := by
  have canonical (wf : memWf s.mem = true) : memWf (s.push (hiByte w)).mem = true := memWf_memWrite_word _ _ wf
  have slots_ne : stackAddress s.sp ≠ stackAddress (s.sp - 1) := fun same =>
    absurd (stackAddress_injective same) (by bv_omega)
  have high : Stored (stackAddress s.sp) (hiByte w) s (s.push (hiByte w)) := stored_push id _
  have kept : MemoryKeptBut [stackAddress s.sp] s (s.push (hiByte w)) :=
    memoryKeptBut_push (slots := []) (fun _ _ => rfl) _
  exact ⟨stored_push_other high slots_ne _, stored_push canonical _, memoryKeptBut_push kept _⟩

/-! Which bytes a pulled word is made of (R46). -/

/-- A word pulled is a word read at the two slots above SP, with SP moved past them. -/
theorem State.pullWord_eq_portReadWord (s : State) :
    s.pullWord = ((s.portReadWord (stackAddress (s.sp + 1)) (stackAddress (s.sp + 1 + 1))).1,
      (s.portReadWord (stackAddress (s.sp + 1)) (stackAddress (s.sp + 1 + 1))).2.setSP (s.sp + 1 + 1)) := rfl

theorem State.pullWord_bytes (s : State) {n : Nat} (mod : s.sp.toNat = n % 256) : ∃ lo hi : Byte,
    s.pullWord.2.bus = s.bus ++ [.read (stackSlot (n + 1)) lo, .read (stackSlot (n + 2)) hi] ∧
    s.pullWord.1.toNat = hi.toNat * 256 + lo.toNat ∧
    (PlainRam s → lo = memRead s.mem (stackSlot (n + 1)).toNat ∧ hi = memRead s.mem (stackSlot (n + 2)).toNat) := by
  have low : stackAddress (s.sp + 1) = stackSlot (n + 1) := by
    refine stackAddress_eq_stackSlot ?_
    rw [toNat_increment, mod, Nat.mod_add_mod]
  have high : stackAddress (s.sp + 1 + 1) = stackSlot (n + 2) := by
    refine stackAddress_eq_stackSlot ?_
    rw [toNat_increment, toNat_increment, mod, Nat.mod_add_mod, Nat.add_assoc, Nat.mod_add_mod]
  obtain ⟨lo, hi, bus, word, ram⟩ := s.portReadWord_bytes (congrArg BitVec.toNat low) (congrArg BitVec.toNat high)
  simp only [BitVec.ofNat_toNat, BitVec.setWidth_eq] at bus
  rw [s.pullWord_eq_portReadWord]
  exact ⟨lo, hi, bus, word, ram⟩

/-! O45 to O47. -/

/-- Settles O45: JSR retires at its operand after pushing PC + 2 as a word. -/
theorem jsrPushesItsLastByte : Obligations.JsrPushesItsLastByte := by
  intro a s
  have word : (hiByte (s.pc + 2)).toNat * 256 + (loByte (s.pc + 2)).toNat = (s.pc.toNat + 2) % 65536 := by
    rw [← toNat_wordOf, wordOf_hiByte_loByte]
    exact BitVec.toNat_add s.pc 2
  have sp : (s.sp - 1 - 1).toNat = (s.sp.toNat + 254) % 256 := by
    rw [toNat_decrement, toNat_decrement, Nat.mod_add_mod]
    omega
  obtain ⟨high, low, kept⟩ := pushWord_stored s (s.pc + 2)
  rw [← stackAddress_eq_stackSlot (BitVec.toNat_mod_cancel s.sp).symm,
    ← stackAddress_eq_stackSlot (toNat_decrement s.sp)]
  exact ⟨rfl, (s.pushWord (s.pc + 2)).retire a .jsr .absolute 0, hiByte (s.pc + 2), loByte (s.pc + 2), rfl, word,
    s.pushWord_bus _, high, low, kept, sp, rfl, ⟨rfl, rfl, rfl, rfl, rfl⟩,
    costs_retire (s.pushWord_cfg _) a .jsr .absolute 0⟩

/-- Settles O46: RTS retires at the pulled word plus 1. -/
theorem rtsPullsAndAddsOne : Obligations.RtsPullsAndAddsOne := by
  intro s
  obtain ⟨lo, hi, bus, word, ram⟩ := s.pullWord_bytes (BitVec.toNat_mod_cancel s.sp).symm
  have pc : (s.pullWord.1 + 1).toNat = (hi.toNat * 256 + lo.toNat + 1) % 65536 := by
    rw [← word]
    exact BitVec.toNat_add s.pullWord.1 1
  have sp : (s.sp + 1 + 1).toNat = (s.sp.toNat + 2) % 256 := by
    rw [toNat_increment, toNat_increment, Nat.mod_add_mod]
  exact ⟨rfl, s.pullWord.2.retire (s.pullWord.1 + 1) .rts .implied 0, lo, hi, rfl, bus, ram, pc, sp,
    ⟨rfl, rfl, rfl, rfl, rfl⟩, memoryKept_of_mem_eq s.pullWord_mem, costs_retire s.pullWord_cfg _ .rts .implied 0⟩

/-- Settles O47: modulo 256 the slots RTS pulls are those JSR stored to, so the word pulled is the one pushed. -/
theorem rtsReturnsAfterJsr : Obligations.RtsReturnsAfterJsr := by
  rintro a s t u ram canonical call ⟨mem, sp, cfg⟩
  obtain ⟨-, t', hi, lo, call', word, -, storedHi, storedLo, -, pushed, -, ⟨-, -, -, -, kept⟩, -⟩ :=
    jsrPushesItsLastByte a s
  cases call'.symm.trans call
  obtain ⟨-, r, lo', hi', ret, -, pulled, pc, popped, -⟩ := rtsPullsAndAddsOne u
  rw [← sp] at pushed
  obtain ⟨low, high⟩ := pulled fun address => by rw [cfg, kept, ram]
  have lowSlot : stackSlot (u.sp.toNat + 1) = stackSlot (s.sp.toNat + 255) := stackSlot_congr (by omega)
  have highSlot : stackSlot (u.sp.toNat + 2) = stackSlot s.sp.toNat := stackSlot_congr (by omega)
  rw [lowSlot, mem, storedLo canonical] at low
  rw [highSlot, mem, storedHi canonical] at high
  refine ⟨r, ret, ?_, BitVec.eq_of_toNat_eq ?_⟩
  · rw [pc, low, high, word, Nat.mod_add_mod]
  · rw [popped, pushed, Nat.mod_add_mod, Nat.add_assoc, Nat.add_mod_right, BitVec.toNat_mod_cancel]

end Sys2Proof.Machine

/-! PROOFS for 45_stack_flags_system.md: O48 to O55. The pushes, the pulls and the flag instructions are three shapes,
each described once. A trap entry stores three bytes and reads the vector, a trap return pulls three; PLP undoes PHP
and RTI undoes BRK because each pulls the slots the other stored to. -/
namespace Sys2Proof.Machine

open Sys2Proof.Claims

/-! The status byte pushed and pulled (R26). -/

/-- What PHP and BRK push: bits 4 and 5 are 1, the others are P's. -/
theorem pushedStatus_bits (p : Byte) :
    (pushedStatus p).getLsbD 4 = true ∧ (pushedStatus p).getLsbD 5 = true ∧ BitsKept [4, 5] p (pushedStatus p) := by
  refine ⟨getLsbD_pushedStatus p 4, getLsbD_pushedStatus p 5, fun k _ kept => ?_⟩
  rw [getLsbD_pushedStatus, if_neg (by simpa using kept)]

/-- What PLP and RTI leave in P: the byte pulled but for bits 4 and 5, which are P's. -/
theorem pulledStatus_bits (p v : Byte) :
    BitsKept [4, 5] v (pulledStatus p v) ∧ BitsKept [0, 1, 2, 3, 6, 7] p (pulledStatus p v) := by
  refine ⟨fun k _ kept => ?_, fun k lt kept => ?_⟩
  · rw [getLsbD_pulledStatus, if_neg (by simpa using kept)]
  · have reserved : k = 4 ∨ k = 5 := by
      simp only [List.mem_cons, List.not_mem_nil, or_false] at kept
      omega
    rw [getLsbD_pulledStatus, if_pos reserved]

/-! The slots a push and a pull use, and SP after them (R45, R46). -/

theorem stackAddress_current (sp : Byte) : stackAddress sp = stackSlot sp.toNat :=
  stackAddress_eq_stackSlot (BitVec.toNat_mod_cancel sp).symm

theorem stackAddress_increment (sp : Byte) : stackAddress (sp + 1) = stackSlot (sp.toNat + 1) :=
  stackAddress_eq_stackSlot (toNat_increment sp)

theorem stackAddress_decrement (sp : Byte) : stackAddress (sp - 1) = stackSlot (sp.toNat + 255) :=
  stackAddress_eq_stackSlot (toNat_decrement sp)

theorem toNat_decrement_twice (sp : Byte) : (sp - 1 - 1).toNat = (sp.toNat + 254) % 256 := by
  rw [toNat_decrement, toNat_decrement]
  omega

theorem stackAddress_decrement_twice (sp : Byte) : stackAddress (sp - 1 - 1) = stackSlot (sp.toNat + 254) :=
  stackAddress_eq_stackSlot (toNat_decrement_twice sp)

/-- An address past the stack page is no slot. -/
theorem ne_stackAddress_of_le {a : Word} (past : 512 ≤ a.toNat) (sp : Byte) : a ≠ stackAddress sp := by
  rintro rfl
  have := sp.isLt
  rw [toNat_stackAddress] at past
  omega

/-- What stands behind the port is a parameter (D26). -/
theorem plainRam_of_cfg_eq {s t : State} (cfg : t.cfg = s.cfg) (ram : PlainRam s) : PlainRam t := fun a => by
  rw [cfg, ram]

/-- The byte pulled is the one at the slot above SP, memory's behind a plain RAM port. -/
theorem State.pull_bytes (s : State) :
    s.pull.2.bus = s.bus ++ [.read (stackSlot (s.sp.toNat + 1)) s.pull.1] ∧
    (PlainRam s → s.pull.1 = memRead s.mem (stackSlot (s.sp.toNat + 1)).toNat) := by
  rw [State.pull_bus, State.pull_value, stackAddress_increment]
  exact ⟨rfl, fun ram => State.answer_ram (ram _)⟩

/-! O48. -/

/-- PHA and PHP in one: the instruction that pushes `v` (R180, R181). -/
def pushInstr (v : Byte) (s : State) : State := (s.push v).retire (s.nextPC .implied) .push .implied 0

theorem exec_pha (s : State) : exec .pha s = .next (pushInstr s.a s) := rfl

theorem exec_php (s : State) : exec .php s = .next (pushInstr (pushedStatus s.p) s) := rfl

theorem pushInstr_frame (v : Byte) (s : State) :
    (pushInstr v s).bus = s.bus ++ [.write (stackSlot s.sp.toNat) v] ∧
      Stored (stackSlot s.sp.toNat) v s (pushInstr v s) ∧
      MemoryKeptBut [stackSlot s.sp.toNat] s (pushInstr v s) ∧
      (pushInstr v s).sp.toNat = (s.sp.toNat + 255) % 256 ∧ RegistersKept s (pushInstr v s) ∧
      Advanced 1 s (pushInstr v s) ∧ Costs s (pushInstr v s) 3 0 := by
  have stored : Stored (stackAddress s.sp) v s (s.push v) := stored_push id v
  have kept : MemoryKeptBut [stackAddress s.sp] s (s.push v) := memoryKeptBut_push (slots := []) (fun _ _ => rfl) v
  rw [← stackAddress_current]
  exact ⟨rfl, stored, kept, toNat_decrement s.sp, ⟨rfl, rfl, rfl, rfl, rfl⟩, toNat_nextPC s .implied,
    costs_retire (s.push_cfg v) _ .push .implied 0⟩

/-- Settles O48: both are the shape of a push, PHA with A and PHP with the pushed status. -/
theorem pushesOfRegisters : Obligations.PushesOfRegisters := fun s =>
  ⟨⟨rfl, rfl⟩, ⟨_, exec_pha s, pushInstr_frame s.a s⟩,
    ⟨_, pushedStatus s.p, exec_php s, pushedStatus_bits s.p, pushInstr_frame (pushedStatus s.p) s⟩⟩

/-! O49. -/

/-- PLA and PLP in one: the instruction that pulls a byte and does with it what `effect` says (R182, R183). -/
def pullInstr (effect : Byte → State → State) (s : State) : State :=
  (effect s.pull.1 s.pull.2).retire (s.nextPC .implied) .pull .implied 0

theorem exec_pla (s : State) : exec .pla s = .next (pullInstr (fun v t => (t.setA v).withNZ v) s) := rfl

theorem exec_plp (s : State) : exec .plp s = .next (pullInstr (fun v t => t.setP (pulledStatus t.p v)) s) := rfl

theorem pullInstr_bus {effect : Byte → State → State} (quiet : ∀ v t, NoAccess t (effect v t)) (s : State) :
    (pullInstr effect s).bus = s.bus ++ [.read (stackSlot (s.sp.toNat + 1)) s.pull.1] :=
  (quiet _ _).bus.trans s.pull_bytes.1

/-- What both do besides the registers `effect` writes. -/
theorem pullInstr_frame {effect : Byte → State → State} (sp : ∀ v t, (effect v t).sp = t.sp)
    (quiet : ∀ v t, NoAccess t (effect v t)) (s : State) :
    (pullInstr effect s).cfg = s.cfg ∧ (pullInstr effect s).sp.toNat = (s.sp.toNat + 1) % 256 ∧
      MemoryKept s (pullInstr effect s) ∧ Advanced 1 s (pullInstr effect s) ∧ Costs s (pullInstr effect s) 4 0 := by
  obtain ⟨cfg, mem, -⟩ := quiet s.pull.1 s.pull.2
  have incremented : (pullInstr effect s).sp = s.sp + 1 := sp _ _
  refine ⟨cfg, ?_, memoryKept_of_mem_eq mem, toNat_nextPC s .implied, costs_retire cfg _ .pull .implied 0⟩
  rw [incremented, toNat_increment]

/-- Settles O49: both are the shape of a pull, PLA into A and PLP into P. -/
theorem pullsOfRegisters : Obligations.PullsOfRegisters := by
  intro s
  obtain ⟨-, ram⟩ := s.pull_bytes
  obtain ⟨fromPulled, fromP⟩ := pulledStatus_bits s.p s.pull.1
  refine ⟨⟨rfl, rfl⟩, ⟨_, s.pull.1, exec_pla s, pullInstr_bus (fun _ _ => ⟨rfl, rfl, rfl⟩) s, ram, rfl,
    flagsNZ_setNZ s.p s.pull.1, bitsKept_setNZ rfl s.pull.1, rfl, rfl, ?_⟩,
    ⟨_, s.pull.1, exec_plp s, pullInstr_bus (fun _ _ => ⟨rfl, rfl, rfl⟩) s, ram, fromPulled, fromP, rfl, rfl, rfl, ?_⟩⟩
  · exact pullInstr_frame (fun _ _ => rfl) (fun _ _ => ⟨rfl, rfl, rfl⟩) s
  · exact pullInstr_frame (fun _ _ => rfl) (fun _ _ => ⟨rfl, rfl, rfl⟩) s

/-! O50. -/

/-- Settles O50: the slot PLP pulls is the one PHP stored to, so the byte pulled is the status pushed. -/
theorem plpRestoresPhp : Obligations.PlpRestoresPhp := by
  rintro s t u ram canonical php ⟨mem, sp, cfg⟩ reserved
  cases (exec_php s).symm.trans php
  obtain ⟨-, stored, -⟩ := pushInstr_frame (pushedStatus s.p) s
  have decremented : u.sp = s.sp - 1 := sp
  have restored : u.sp + 1 = s.sp := by rw [decremented, BitVec.sub_add_cancel]
  have slot : stackSlot (u.sp.toNat + 1) = stackSlot s.sp.toNat := by
    rw [← stackAddress_increment, restored, stackAddress_current]
  have pulled : u.pull.1 = pushedStatus s.p := by
    rw [u.pull_bytes.2 (plainRam_of_cfg_eq cfg ram), slot, mem, stored canonical]
  refine ⟨_, exec_plp u, ?_, restored⟩
  calc pulledStatus u.p u.pull.1
    _ = pulledStatus u.p (pushedStatus s.p) := by rw [pulled]
    _ = s.p := pulledStatus_pushedStatus s.p u.p reserved

/-! O51. -/

theorem flagInstr_frame (f : Flag) (b : Bool) (s : State) :
    getFlag (impliedInstr (fun t => t.withFlag f b) s).p f = b ∧
      BitsKept [f.bit] s.p (impliedInstr (fun t => t.withFlag f b) s).p ∧
      (impliedInstr (fun t => t.withFlag f b) s).a = s.a ∧ (impliedInstr (fun t => t.withFlag f b) s).x = s.x ∧
      (impliedInstr (fun t => t.withFlag f b) s).y = s.y ∧ (impliedInstr (fun t => t.withFlag f b) s).sp = s.sp ∧
      ImpliedStep s (impliedInstr (fun t => t.withFlag f b) s) :=
  ⟨getFlag_setFlag_same s.p f b, bitsKept_setFlag (List.mem_singleton_self _) b (bitsKept_of_eq rfl), rfl, rfl, rfl,
    rfl, impliedInstr_impliedStep (fun _ => ⟨rfl, rfl, rfl⟩) s⟩

/-- Settles O51: each writes its own flag. -/
theorem flagInstructions : Obligations.FlagInstructions := fun s =>
  ⟨⟨rfl, rfl, rfl, rfl, rfl, rfl, rfl⟩, ⟨_, rfl, flagInstr_frame .carry false s⟩,
    ⟨_, rfl, flagInstr_frame .decimal false s⟩, ⟨_, rfl, flagInstr_frame .interruptDisable false s⟩,
    ⟨_, rfl, flagInstr_frame .overflow false s⟩, ⟨_, rfl, flagInstr_frame .carry true s⟩,
    ⟨_, rfl, flagInstr_frame .decimal true s⟩, ⟨_, rfl, flagInstr_frame .interruptDisable true s⟩⟩

/-! O52. -/

theorem exec_ill_of_nop {s : State} (policy : s.cfg.illegalPolicy = .nop) (op : Byte) :
    exec (.ill op) s = .next (s.retire (s.nextPC .implied) .illegal .implied 0) := by
  simp only [exec, execIll, policy]

/-- The end of a step at nextPC with base cost 2 is an Implied step that leaves every register but PC. -/
theorem retire_onlyAdvances {c : CostClass} (cost : baseCost c .implied = 2) (s : State) :
    RegistersKept s (s.retire (s.nextPC .implied) c .implied 0) ∧
      (s.retire (s.nextPC .implied) c .implied 0).sp = s.sp ∧
      ImpliedStep s (s.retire (s.nextPC .implied) c .implied 0) := by
  have costs := costs_retire (s := s) rfl (s.nextPC .implied) c .implied 0
  rw [cost] at costs
  exact ⟨⟨rfl, rfl, rfl, rfl, rfl⟩, rfl, toNat_nextPC s .implied, rfl, fun _ => rfl, rfl, costs⟩

/-- Settles O52: NOP and the placeholder end their step and do nothing else. -/
theorem nopAndIllegalOnlyAdvance : Obligations.NopAndIllegalOnlyAdvance := fun s =>
  ⟨rfl, ⟨_, rfl, retire_onlyAdvances (c := .otherImplied) rfl s⟩,
    fun op _ => ⟨rfl, fun policy => ⟨_, exec_ill_of_nop policy op, retire_onlyAdvances rfl s⟩⟩⟩

/-! O53. -/

theorem exec_brk (s : State) :
    exec .brk s = .next ((s.enterTrap (s.pc + 2)).2.retire (s.enterTrap (s.pc + 2)).1 .brk .implied 0) := rfl

/-- A trap entry stores the return address at SP and SP - 1 and the status at SP - 2, nothing else (R215). -/
theorem enterTrap_stored (s : State) (r : Word) :
    Stored (stackAddress s.sp) (hiByte r) s (s.enterTrap r).2 ∧
    Stored (stackAddress (s.sp - 1)) (loByte r) s (s.enterTrap r).2 ∧
    Stored (stackAddress (s.sp - 1 - 1)) (pushedStatus s.p) s (s.enterTrap r).2 ∧
    MemoryKeptBut [stackAddress s.sp, stackAddress (s.sp - 1), stackAddress (s.sp - 1 - 1)] s (s.enterTrap r).2 := by
  obtain ⟨high, low, kept⟩ := pushWord_stored s r
  have canonical (wf : memWf s.mem = true) : memWf (s.pushWord r).mem = true :=
    memWf_memWrite_word _ _ (memWf_memWrite_word _ _ wf)
  have highSlot : stackAddress s.sp ≠ stackAddress (s.sp - 1 - 1) := fun same =>
    absurd (stackAddress_injective same) (by bv_omega)
  have lowSlot : stackAddress (s.sp - 1) ≠ stackAddress (s.sp - 1 - 1) := fun same =>
    absurd (stackAddress_injective same) (by bv_omega)
  exact ⟨stored_push_other high highSlot (pushedStatus s.p), stored_push_other low lowSlot (pushedStatus s.p),
    stored_push canonical (pushedStatus s.p), memoryKeptBut_push kept (pushedStatus s.p)⟩

/-- After its three pushes a trap entry reads the handler's address at the vector, which no push has written. -/
theorem enterTrap_vector (s : State) (r : Word) : ∃ lo hi : Byte,
    (s.enterTrap r).2.bus = s.bus ++
      [.write (stackAddress s.sp) (hiByte r), .write (stackAddress (s.sp - 1)) (loByte r),
        .write (stackAddress (s.sp - 1 - 1)) (pushedStatus s.p), .read 0xFFFE lo, .read 0xFFFF hi] ∧
    (s.enterTrap r).1.toNat = hi.toNat * 256 + lo.toNat ∧
    (PlainRam s → lo = memRead s.mem 0xFFFE ∧ hi = memRead s.mem 0xFFFF) := by
  obtain ⟨-, -, -, kept⟩ := enterTrap_stored s r
  obtain ⟨lo, hi, bus, word, answered⟩ :=
    (((s.pushWord r).push (pushedStatus s.p)).withFlag .interruptDisable true).portReadWord_bytes
      (lowAddress := breakVector) (highAddress := breakVector + 1) (l := 0xFFFE) (h := 0xFFFF) rfl rfl
  refine ⟨lo, hi, ?_, word, fun ram => ?_⟩
  · simp only [State.withFlag_bus, State.push_bus, State.pushWord_bus, State.pushWord_sp, List.append_assoc,
      List.cons_append, List.nil_append] at bus
    exact bus
  · obtain ⟨low, high⟩ := answered (plainRam_of_cfg_eq (s := s) (by simp) ram)
    have vector {a : Word} (past : 512 ≤ a.toNat) : memRead (s.enterTrap r).2.mem a.toNat = memRead s.mem a.toNat :=
      kept a (by simp [ne_stackAddress_of_le past])
    exact ⟨low.trans (vector (a := 0xFFFE) (by decide)), high.trans (vector (a := 0xFFFF) (by decide))⟩

/-- A trap entry moves SP down by three and writes I, no other flag or register (R215). -/
theorem enterTrap_registers (s : State) (r : Word) :
    (s.enterTrap r).2.sp.toNat = (s.sp.toNat + 253) % 256 ∧ getFlag (s.enterTrap r).2.p .interruptDisable = true ∧
      BitsKept [2] s.p (s.enterTrap r).2.p ∧ (s.enterTrap r).2.a = s.a ∧ (s.enterTrap r).2.x = s.x ∧
      (s.enterTrap r).2.y = s.y ∧ (s.enterTrap r).2.cfg = s.cfg := by
  rw [State.enterTrap_sp, State.enterTrap_p]
  refine ⟨?_, getFlag_setFlag_same s.p .interruptDisable true, ?_, s.enterTrap_a r, s.enterTrap_x r, s.enterTrap_y r,
    s.enterTrap_cfg r⟩
  · rw [toNat_decrement, toNat_decrement_twice]
    omega
  · exact bitsKept_setFlag (f := .interruptDisable) (List.mem_singleton_self _) true (bitsKept_of_eq rfl)

/-- The two bytes of BRK's return address (R192). -/
theorem toNat_returnBytes (pc : Word) :
    (hiByte (pc + 2)).toNat * 256 + (loByte (pc + 2)).toNat = (pc.toNat + 2) % 65536 := by
  rw [← toNat_wordOf, wordOf_hiByte_loByte]
  exact BitVec.toNat_add pc 2

/-- Settles O53: BRK is a trap entry with return address PC + 2. -/
theorem brkEntersTheTrap : Obligations.BrkEntersTheTrap := by
  intro s
  obtain ⟨high, low, status, kept⟩ := enterTrap_stored s (s.pc + 2)
  obtain ⟨lo, hi, bus, word, ram⟩ := enterTrap_vector s (s.pc + 2)
  obtain ⟨sp, disabled, flags, a, x, y, cfg⟩ := enterTrap_registers s (s.pc + 2)
  rw [← stackAddress_current, ← stackAddress_decrement, ← stackAddress_decrement_twice]
  exact ⟨rfl, (s.enterTrap (s.pc + 2)).2.retire (s.enterTrap (s.pc + 2)).1 .brk .implied 0, hiByte (s.pc + 2),
    loByte (s.pc + 2), pushedStatus s.p, lo, hi, exec_brk s, toNat_returnBytes s.pc, pushedStatus_bits s.p, bus, high,
    low, status, kept, word, ram, sp, disabled, flags, a, x, y, cfg, costs_retire cfg _ .brk .implied 0⟩

/-! O54. -/

theorem exec_rti (s : State) : exec .rti s = .next (s.leaveTrap.2.retire s.leaveTrap.1 .rti .implied 0) := rfl

/-- A trap return pulls the status and then PC, the low byte first (R216). -/
theorem leaveTrap_bytes (s : State) : ∃ lo hi : Byte,
    s.leaveTrap.2.bus = s.bus ++
      [.read (stackSlot (s.sp.toNat + 1)) s.pull.1, .read (stackSlot (s.sp.toNat + 2)) lo,
        .read (stackSlot (s.sp.toNat + 3)) hi] ∧
    s.leaveTrap.1.toNat = hi.toNat * 256 + lo.toNat ∧
    (PlainRam s → s.pull.1 = memRead s.mem (stackSlot (s.sp.toNat + 1)).toNat ∧
      lo = memRead s.mem (stackSlot (s.sp.toNat + 2)).toNat ∧
      hi = memRead s.mem (stackSlot (s.sp.toNat + 3)).toNat) := by
  obtain ⟨first, status⟩ := s.pull_bytes
  obtain ⟨lo, hi, rest, word, answered⟩ :=
    (s.pull.2.setP (pulledStatus s.p s.pull.1)).pullWord_bytes (toNat_increment s.sp)
  refine ⟨lo, hi, ?_, word, fun ram => ⟨status ram, answered (plainRam_of_cfg_eq (s := s) (by simp) ram)⟩⟩
  rw [State.setP_bus, first, List.append_assoc] at rest
  exact rest

/-- Settles O54: RTI is a trap return. -/
theorem rtiLeavesTheTrap : Obligations.RtiLeavesTheTrap := by
  intro s
  obtain ⟨lo, hi, bus, word, ram⟩ := leaveTrap_bytes s
  obtain ⟨fromPulled, fromP⟩ := pulledStatus_bits s.p s.pull.1
  rw [State.pull_value, ← State.leaveTrap_p] at fromPulled fromP
  have sp : s.leaveTrap.2.sp.toNat = (s.sp.toNat + 3) % 256 := by
    simp only [State.leaveTrap_sp, toNat_increment]
    omega
  exact ⟨rfl, s.leaveTrap.2.retire s.leaveTrap.1 .rti .implied 0, s.pull.1, lo, hi, exec_rti s, bus, ram,
    fromPulled, fromP, word, sp, s.leaveTrap_a, s.leaveTrap_x, s.leaveTrap_y, s.leaveTrap_cfg,
    memoryKept_of_mem_eq s.leaveTrap_mem, costs_retire s.leaveTrap_cfg _ .rti .implied 0⟩

/-! O55. -/

/-- Settles O55: the slots RTI pulls are those BRK stored to, so the status and PC pulled are those pushed. -/
theorem rtiReturnsFromBrk : Obligations.RtiReturnsFromBrk := by
  rintro s t u ram canonical brk ⟨mem, sp, cfg⟩ reserved
  cases (exec_brk s).symm.trans brk
  obtain ⟨high, low, status, -⟩ := enterTrap_stored s (s.pc + 2)
  rw [stackAddress_current] at high
  rw [stackAddress_decrement] at low
  rw [stackAddress_decrement_twice] at status
  have popped : u.sp + 1 + 1 + 1 = s.sp := by
    rw [sp, State.retire_sp, State.enterTrap_sp]
    bv_omega
  have count : s.sp.toNat = (u.sp.toNat + 3) % 256 := by
    rw [← popped]
    simp only [toNat_increment]
    omega
  rw [State.retire_cfg, State.enterTrap_cfg] at cfg
  obtain ⟨lo, hi, -, word, answered⟩ := leaveTrap_bytes u
  obtain ⟨pulled, pulledLow, pulledHigh⟩ := answered (plainRam_of_cfg_eq cfg ram)
  rw [stackSlot_congr (n := s.sp.toNat + 254) (by omega), mem, State.retire_mem, status canonical] at pulled
  rw [stackSlot_congr (n := s.sp.toNat + 255) (by omega), mem, State.retire_mem, low canonical] at pulledLow
  rw [stackSlot_congr (n := s.sp.toNat) (by omega), mem, State.retire_mem, high canonical] at pulledHigh
  refine ⟨_, exec_rti u, ?_, ?_, ?_⟩
  · rw [State.retire_pc, word, pulledLow, pulledHigh, toNat_returnBytes]
  · rw [State.retire_p, State.leaveTrap_p, ← State.pull_value, pulled, pulledStatus_pushedStatus s.p u.p reserved]
  · rw [State.retire_sp, State.leaveTrap_sp, popped]

end Sys2Proof.Machine

/-! PROOFS for 70_reset_and_hazards.md: O19, O20 and O57. A reset sets every register to its default or, PC, to the word
it reads at the vector. No operation before the end of a step asks for the cycle model or the counter, so each of them takes
a retimed state to the retimed result; `State.retire`, which writes the counter, is the one place where the two runs
part. -/
namespace Sys2Proof.Machine

open Sys2Proof.Claims

/-! O19 and O20. -/

/-- The vector's bytes are the port's answers to the next two accesses, the low byte first (R232). -/
theorem State.resetTransaction_pc (s : State) :
    s.resetTransaction.pc = wordOf ({ s with portSeq := s.portSeq + 1 }.answer 0xFFFD) (s.answer 0xFFFC) := rfl

theorem State.resetTransaction_bus (s : State) :
    s.resetTransaction.bus =
      [.read 0xFFFC (s.answer 0xFFFC), .read 0xFFFD ({ s with portSeq := s.portSeq + 1 }.answer 0xFFFD)] := rfl

/-- What an observer sees after a reset: PC from the vector, and the defaults (R232, R233). -/
theorem State.observe_resetTransaction (s : State) :
    s.resetTransaction.observe =
      { a := 0x00, x := 0x00, y := 0x00, sp := 0xFD, pc := s.resetTransaction.pc, p := s.cfg.pReset.value,
        cycles := 0 } := rfl

/-- Behind a plain RAM port the vector is memory's. -/
theorem State.resetTransaction_pc_of_ram {s : State} (ram : PlainRam s) :
    s.resetTransaction.pc = wordOf (memRead s.mem 0xFFFD) (memRead s.mem 0xFFFC) :=
  congrArg₂ wordOf (State.answer_ram (ram _)) (State.answer_ram (ram _))

/-- Settles O19: the reset transaction is two port reads and a write of every register. -/
theorem resetTransaction : Obligations.ResetTransaction := by
  intro s
  refine ⟨s.resetTransaction, s.answer 0xFFFC, { s with portSeq := s.portSeq + 1 }.answer 0xFFFD, rfl,
    s.resetTransaction_bus, ?_, rfl, rfl, rfl, rfl, rfl, rfl, rfl, s.resetTransaction_cfg, rfl, fun h => ?_,
    fun h => ?_⟩
  · rw [s.resetTransaction_pc, toNat_wordOf]
  · exact congrArg PReset.value h
  · exact congrArg PReset.value h

/-- Settles O20: the observation after a reset depends on `P_RESET` and the vector alone. -/
theorem resetRepeats : Obligations.ResetRepeats := by
  intro s s' ram cfg low high
  rw [s'.observe_resetTransaction, s.observe_resetTransaction, cfg, State.resetTransaction_pc_of_ram ram,
    State.resetTransaction_pc_of_ram (plainRam_of_cfg_eq cfg ram), low, high]

/-! O57. -/

/-- `t'` is `t` with the cycle model `m` and some value in the counter. -/
def IsRetimed (m : CycleModel) (t t' : State) : Prop := ∃ k, t' = retimed m k t

/-- The outcome `o'` is `o` with the cycle model `m` and some value in the counter of its next state, if any. -/
def OutcomeRetimed (m : CycleModel) (o o' : Host.Outcome State Fault Refusal) : Prop :=
  ∃ k, o' = mapNext (retimed m k) o

theorem IsRetimed.next {m : CycleModel} {t t' : State} (h : IsRetimed m t t') :
    OutcomeRetimed m (.next t) (.next t') := by
  obtain ⟨k, rfl⟩ := h
  exact ⟨k, rfl⟩

section Retimed

variable (m : CycleModel) (n : Nat) (s : State)

/-- No address depends on the cycle model or the counter. -/
theorem resolve_retimed (o : Operand) :
    resolve o (retimed m n s) = { resolve o s with state := retimed m n (resolve o s).state } := by
  cases o <;> rfl

theorem loadOperand_retimed (o : Operand) :
    loadOperand o (retimed m n s) = { loadOperand o s with state := retimed m n (loadOperand o s).state } := by
  cases o <;> rfl

/-- The fetch starts with the counter at 0 and asks for neither. -/
theorem fetch_retimed : (retimed m n s).fetch = (s.fetch.1, retimed m 0 s.fetch.2) := by
  simp only [State.fetch]
  have opcode : ((retimed m n s).beginStep.portRead (retimed m n s).pc).1 = (s.beginStep.portRead s.pc).1 := rfl
  rw [opcode]
  split
  · rfl
  · split <;> rfl

/-- The end of a step: the two runs count differently and agree on the rest. -/
theorem retire_isRetimed (pc : Word) (c : CostClass) (mode : Mode) (penalty : Nat) :
    IsRetimed m (s.retire pc c mode penalty) ((retimed m n s).retire pc c mode penalty) := ⟨_, rfl⟩

theorem readInstr_isRetimed (o : Operand) {f : Byte → State → State}
    (comm : ∀ v t, f v (retimed m n t) = retimed m n (f v t)) :
    IsRetimed m (readInstr o f s) (readInstr o f (retimed m n s)) := by
  rw [readInstr_eq, readInstr_eq, loadOperand_retimed, comm]
  exact retire_isRetimed m n _ _ _ _ _

theorem storeInstr_isRetimed (o : Operand) (v : Byte) :
    IsRetimed m (storeInstr o v s) (storeInstr o v (retimed m n s)) := by
  rw [storeInstr, storeInstr, resolve_retimed]
  exact retire_isRetimed m n ((resolve o s).state.portWrite (resolve o s).ea v) _ _ _ _

theorem modifyMemory_isRetimed (o : Operand) (f : Byte → Byte → Byte × Byte) :
    IsRetimed m (modifyMemory o f s) (modifyMemory o f (retimed m n s)) := by
  rw [modifyMemory, modifyMemory, resolve_retimed]
  exact ⟨_, rfl⟩

theorem modifyInstr_isRetimed (o : ShiftOperand) (f : Byte → Byte → Byte × Byte) :
    IsRetimed m (modifyInstr o f s) (modifyInstr o f (retimed m n s)) := by
  cases o with
  | acc => exact ⟨_, rfl⟩
  | mem o => exact modifyMemory_isRetimed m n s o f

theorem impliedInstr_isRetimed {f : State → State} (comm : f (retimed m n s) = retimed m n (f s)) :
    IsRetimed m (impliedInstr f s) (impliedInstr f (retimed m n s)) := by
  rw [impliedInstr, impliedInstr, comm]
  exact retire_isRetimed m n (f s) _ _ _ _

theorem branchInstr_isRetimed (taken : Bool) (d : Byte) :
    IsRetimed m (branchInstr taken d s) (branchInstr taken d (retimed m n s)) := retire_isRetimed m n s _ _ _ _

/-- Every instruction does the same, or is refused alike, whatever the cycle model and the counter. -/
theorem exec_retimed (i : Instr) : OutcomeRetimed m (exec i s) (exec i (retimed m n s)) := by
  cases i with
  | adc o | and o | bit o | cmp o | cpx o | cpy o | eor o | lda o | ldx o | ldy o | ora o | sbc o =>
    exact IsRetimed.next (readInstr_isRetimed m n s o fun _ _ => rfl)
  | sta o | stx o | sty o => exact IsRetimed.next (storeInstr_isRetimed m n s o _)
  | inc o | dec o => exact IsRetimed.next (modifyMemory_isRetimed m n s o _)
  | asl o | lsr o | rol o | ror o => exact IsRetimed.next (modifyInstr_isRetimed m n s o _)
  | bcc d | bcs d | beq d | bmi d | bne d | bpl d | bvc d | bvs d =>
    exact IsRetimed.next (branchInstr_isRetimed m n s _ d)
  | clc | cld | cli | clv | sec | sed | sei | dex | dey | inx | iny | nop | tax | tay | tsx | txa | txs | tya =>
    exact IsRetimed.next (impliedInstr_isRetimed m n s rfl)
  | jmp o =>
    cases o with
    | abs a => exact IsRetimed.next (retire_isRetimed m n s a _ _ _)
    | ind p => exact IsRetimed.next (retire_isRetimed m n (s.indirectTarget p).2 _ _ _ _)
  | jsr a => exact IsRetimed.next (retire_isRetimed m n (s.pushWord (s.pc + 2)) a _ _ _)
  | rts => exact IsRetimed.next (retire_isRetimed m n s.pullWord.2 _ _ _ _)
  | brk => exact IsRetimed.next (retire_isRetimed m n (s.enterTrap (s.pc + 2)).2 _ _ _ _)
  | rti => exact IsRetimed.next (retire_isRetimed m n s.leaveTrap.2 _ _ _ _)
  | pha => exact IsRetimed.next (retire_isRetimed m n (s.push s.a) _ _ _ _)
  | php => exact IsRetimed.next (retire_isRetimed m n (s.push (pushedStatus s.p)) _ _ _ _)
  | pla => exact IsRetimed.next (retire_isRetimed m n ((s.pull.2.setA s.pull.1).withNZ s.pull.1) _ _ _ _)
  | plp => exact IsRetimed.next (retire_isRetimed m n (s.pull.2.setP (pulledStatus s.p s.pull.1)) _ _ _ _)
  | ill op =>
    have same : (retimed m n s).cfg.illegalPolicy = s.cfg.illegalPolicy := rfl
    simp only [exec, execIll, same]
    cases s.cfg.illegalPolicy with
    | nop => exact IsRetimed.next (retire_isRetimed m n s _ _ _ _)
    | refuse => exact ⟨n, rfl⟩

/-- A step of a retimed block is the step retimed. -/
theorem step_retimed : OutcomeRetimed m (step s) (step (retimed m n s)) := by
  rw [step, step, fetch_retimed]
  exact exec_retimed m 0 s.fetch.2 s.fetch.1

end Retimed

/-- Settles O57: the counter after the step is the one value in which, with the cycle model, the two runs may differ. -/
theorem cycleModelIsInvisible : Obligations.CycleModelIsInvisible := by
  intro m n s
  obtain ⟨k, same⟩ := step_retimed m n s
  exact ⟨fun _ => k, same⟩

end Sys2Proof.Machine
